-- ==== Sys2Proof/Word.lean ====
section
/-! DEFINITION. The word types of the NK284 (00_scope.md, Conventions: Time, Byte order). -/

namespace Sys2Proof

/-- One byte of a frame, of a job's data or on a bus. -/
abbrev Byte := BitVec 8

/-- A time value: a 48-bit tick count (00_scope.md, Time; R51). -/
abbrev Time := BitVec 48

/-- The host-chosen number that names a live job (R2). -/
abbrev Tag := BitVec 16

end Sys2Proof
end

