-- ==== Sys2Proof/Syntax.lean ====
section
/-! DEFINITION. The commands of the NK284: one constructor of `Instr` per row of
spec/opcode_table.json. The table gives a row no operands; those below are the model's (log 1): what
the event brings from outside the part (a received byte, pin levels, an acknowledge), or which port,
line or job it is about. A request row acts on the request in hand and so has no operand for the
request's fields. -/

namespace Sys2Proof

/-- Bus port A or B. -/
inductive PortId where
  | a
  | b
deriving DecidableEq, Repr

/-- The levels a port reads on its two lines; `true` is high (R116, R124). -/
structure Levels where
  scl : Bool
  sda : Bool
deriving DecidableEq, Repr

/-- What a tick increment finds of a port's wait for SCL to rise after a release (R125). -/
inductive SclWait where
  /-- The port is not waiting: it has not released SCL, or SCL reads high. -/
  | none
  /-- SCL reads low after a release made since the last increment. -/
  | begun
  /-- SCL still reads low after the release whose wait the last increment counted. -/
  | goesOn
deriving DecidableEq, Repr

/-- What a tick increment samples of one port: the levels of its lines (for port B also the pins of
EV6 and EV7), its presence pin (`true` is high, R112) and its wait for SCL (R125). -/
structure PortSample where
  lines : Levels
  prs   : Bool
  wait  : SclWait
deriving DecidableEq, Repr

/-- The pin samples of one tick increment; bit n of `ev` is EVn, n from 0 to 5 (R66, R70). -/
structure Samples where
  ev : BitVec 6
  a  : PortSample
  b  : PortSample
deriving DecidableEq, Repr

/-- An act by which another block comes before the time base at one increment (R56). The list that
TICK_INCREMENT carries holds these acts only: that any other command (a request, an event on the wires
such as START, STOP or ARBITRATION_LOSS, a RUN_START) comes before all of them or after the time base's
event, and not between the two, is the model's choice (log 3). -/
inductive TickAct where
  /-- The event unit's act of the increment (R75). -/
  | eventUnit
  /-- What a port's counts bring about, all of it in one fixed order, a presence change before a stretch
  timeout: the model's choice, for the spec orders them nowhere (log 3). -/
  | port (port : PortId)
  /-- A dispatch (R92). -/
  | dispatch (port : PortId)
  /-- What the counts of the report queue and the host link bring about, all of it in one fixed order:
  the model's choice (log 3). -/
  | link
deriving DecidableEq, Repr

/-- What comes from outside at one tick increment: the samples (R70, R112, R125, R128), and in their
order the acts of other blocks that come before the time base's advance and evaluation (R56; log 3). -/
structure Increment where
  samples : Samples
  early   : List TickAct
deriving DecidableEq, Repr

/-- A port, with the levels that its lines read. -/
structure PortLines where
  port  : PortId
  lines : Levels
deriving DecidableEq, Repr

/-- The commands, in the table's order. -/
inductive Instr where
  /-- PIN_RESET, with RATE1 and RATE0 as sampled (R27, R174). -/
  | pinReset (rate : BitVec 2)
  /-- BYTE_RECEIVED after a start bit, with the levels of the eight data bits in the order received, the
  least significant first, and the level of the stop bit (R162, R164). -/
  | byteReceived (data : List Bool) (stop : Bool)
  /-- GAP_TIMEOUT (R164). -/
  | gapTimeout
  /-- UNKNOWN_KIND: the request in hand is of no known kind (R166). -/
  | unknownKind
  /-- PING (R171). -/
  | ping
  /-- GET_SUMMARY (R172). -/
  | getSummary
  /-- SET_LINK (R170). -/
  | setLink
  /-- RESET: the request is taken (R173). -/
  | reset
  /-- RESET_TAKES_EFFECT: the OK reply of RESET leaves the transmit queue (R173). -/
  | resetTakesEffect
  /-- GET_TIME (R54). -/
  | getTime
  /-- SET_TIME (R55). -/
  | setTime
  /-- CONFIG_LINE (R68). -/
  | configLine
  /-- GET_CAPTURE (R82). -/
  | getCapture
  /-- CLEAR_CAPTURE (R80). -/
  | clearCapture
  /-- CONFIG_PORT, with the levels of the named port's lines at this event (R107, R116). -/
  | configPort (lines : Levels)
  /-- GET_PORT (R122). -/
  | getPort
  /-- SUBMIT (R6). -/
  | submit
  /-- CANCEL; `startUnderWay` says whether the named job's port, where it stands before a START of a
  bus that is free, has begun to give it (R144). -/
  | cancel (startUnderWay : Bool)
  /-- JOB_STATUS (R25). -/
  | jobStatus
  /-- FETCH (R49). -/
  | fetch
  /-- RELEASE (R26). -/
  | release
  /-- READ_REPORTS (R155). -/
  | readReports
  /-- REPLY_SENT: the head reply has been sent whole (R167). -/
  | replySent
  /-- HOLD_LIMIT (R169). -/
  | holdLimit
  /-- TICK_INCREMENT (R51). -/
  | tickIncrement (increment : Increment)
  /-- DEADLINE_EXPIRY of the named job (R63). -/
  | deadlineExpiry (tag : Tag)
  /-- AT_TRIGGER of the named job (R57). -/
  | atTrigger (tag : Tag)
  /-- EVERY_MATCH of the named job (R60). -/
  | everyMatch (tag : Tag)
  /-- EDGE_DETECTED on the line (R71). -/
  | edgeDetected (line : Nat)
  /-- EVENT_TRIGGER of the named job (R77). -/
  | eventTrigger (tag : Tag)
  /-- PRESENCE_LOSS, with the readings of the bits of the byte in progress that have been taken since the
  port's last command (R113, R114; log 7). -/
  | presenceLoss (port : PortId) (bits : List Bool)
  /-- PRESENCE_GAIN (R115). -/
  | presenceGain (port : PortId)
  /-- SETTLE_END (R115). -/
  | settleEnd (port : PortId)
  /-- RECOVERY_END, with the readings of SDA made since the stage the recovery stands in, at stage 2 and
  in each pulse, oldest first, and the levels at the line check of stage 6; none where the sequence has
  not come to it yet (R117, R118; log 20). -/
  | recoveryEnd (port : PortId) (sda : List Bool) (lines : Option Levels)
  /-- STUCK_RECHECK (R119). -/
  | stuckRecheck (port : PortId)
  /-- BUS_START_SEEN: another master's START (R128). -/
  | busStartSeen (port : PortId)
  /-- BUS_STOP_SEEN: another master's STOP (R128). -/
  | busStopSeen (port : PortId)
  /-- TRACKER_TIMEOUT (R128). -/
  | trackerTimeout (port : PortId)
  /-- DISPATCH (R92). -/
  | dispatch (port : PortId)
  /-- RUN_START, with the levels of the port's lines (R131). -/
  | runStart (port : PortId) (lines : Levels)
  /-- START: a START or repeated START completes (R126, R131); the levels are those before a START, and a
  repeated START has none to test. -/
  | start (port : PortLines)
  /-- ADDRESS, with the readings of SDA in the high phases of the bits of the address byte taken since the
  port's last command, in their order (R124, R127). The ninth of a byte is its acknowledge, low for ACK
  (R132); fewer leave the byte in progress (log 7). -/
  | address (port : PortId) (bits : List Bool)
  /-- POLL, with the readings of the bits of a POLL attempt's address byte, as for ADDRESS (R133). -/
  | poll (port : PortId) (bits : List Bool)
  /-- POLL_GAP_END (R133). -/
  | pollGapEnd (port : PortId)
  /-- WRITE, with the readings of the bits of a write byte, as for ADDRESS (R134). -/
  | write (port : PortId) (bits : List Bool)
  /-- READ, with the readings of the bits of a read byte: eight data bits, the most significant first, then
  the ninth bit that the port gives (R127, R135; log 7). -/
  | read (port : PortId) (bits : List Bool)
  /-- STOP: a STOP condition completes (R136). -/
  | stop (port : PortId)
  /-- PAUSE_HOLD_END (R137). -/
  | pauseHoldEnd (port : PortId)
  /-- PAUSE_FREE_END (R138). -/
  | pauseFreeEnd (port : PortId)
  /-- STRETCH_TIMEOUT, with the readings of the bits of the byte in progress that have been taken since the
  port's last command, of which there is none where a timeout is due (R125, R141; log 7). -/
  | stretchTimeout (port : PortId) (bits : List Bool)
  /-- ARBITRATION_LOSS: SDA reads low at a check point, with the readings of the bits of the byte in
  progress that have been taken before it since the port's last command (R129, R142; log 7). -/
  | arbitrationLoss (port : PortId) (bits : List Bool)
  /-- ATTN_PULSE_END (R159). -/
  | attnPulseEnd
deriving DecidableEq, Repr

end Sys2Proof
end

