-- ==== Sys2Proof/Decode.lean ====
section
/-! DEFINITION. The table's rows as words: spec/opcode_table.json gives no row any bits (the NK284 is a
block that takes events, not instruction words), so no word spells a command. -/

namespace Sys2Proof

/-- The command a word of the table's bits spells: none, since no row of the table has bits. -/
def decodeTableWord (_nbits _w : Nat) : Option Instr := none

end Sys2Proof
end

