-- ==== Sys2Proof/Machine/Memory.lean ====
section
/-! DEFINITION. The bytes of the data pool (R41) as a list of cells in one canonical form: addresses
strictly rising, and no cell holding 0, which is what an unlisted address reads as (log 12). -/

namespace Sys2Proof.Machine

/-- What an unlisted pool byte reads as (log 12). -/
abbrev Memory.blank : Byte := 0

/-- The byte at address `a`. -/
def Memory.read : List Host.Cell → Nat → Byte
  | [], _ => Memory.blank
  | (k, v) :: m, a => if k = a then v else Memory.read m a

/-- Memory with byte `b` at address `a`, in canonical form. -/
def Memory.write : List Host.Cell → Nat → Byte → List Host.Cell
  | [], a, b => if b = Memory.blank then [] else [(a, b)]
  | (k, v) :: m, a, b =>
    if a < k then if b = Memory.blank then (k, v) :: m else (a, b) :: (k, v) :: m
    else if a = k then if b = Memory.blank then m else (a, b) :: m
    else (k, v) :: Memory.write m a b

/-- Canonical form of a list whose addresses are all at least `lo`. -/
def Memory.wfFrom (lo : Nat) : List Host.Cell → Bool
  | [] => true
  | (k, v) :: m => decide (lo ≤ k) && v != Memory.blank && Memory.wfFrom (k + 1) m

/-- The canonical form. -/
def Memory.wf (m : List Host.Cell) : Bool := Memory.wfFrom 0 m

end Sys2Proof.Machine
end

