-- ==== Sys2Proof/Config.lean ====
section
/-! DEFINITION. What the part fixes: capacities and fixed durations (00_scope.md, Capacities at a
glance, and the rules named below). The spec leaves no result of a command undefined, so there is
no free value here. -/

namespace Sys2Proof.Config

/-- Job slots (R1). -/
abbrev jobSlots : Nat := 32
/-- Data-pool blocks (R41). -/
abbrev poolBlocks : Nat := 64
/-- Bytes in a data-pool block (R41). -/
abbrev blockBytes : Nat := 32
/-- Report-queue slots (R148). -/
abbrev reportSlots : Nat := 48
/-- Event lines (R66). -/
abbrev eventLines : Nat := 8
/-- Bus ports (R106). -/
abbrev busPorts : Nat := 2
/-- Replies the transmit queue holds (R167). -/
abbrev txSlots : Nat := 4
/-- Read data carried in a report, and the bound of a short job (R5, R47). -/
abbrev shortBytes : Nat := 48
/-- Size of the SUBMIT descriptor (R7). -/
abbrev descriptorBytes : Nat := 23
/-- Samples a presence change takes (R112). -/
abbrev presenceSamples : Nat := 64
/-- Increments between two re-checks of a STUCK port (R119). -/
abbrev recheckTicks : Nat := 1024
/-- Increments with both lines high that free a bus tracker (R128). -/
abbrev trackerTicks : Nat := 64
/-- Clock pulses a recovery gives at most (R117). -/
abbrev recoveryPulses : Nat := 9
/-- Increments in the unit of the hold limit (R169). -/
abbrev holdUnit : Nat := 1024
/-- Length of an ATTN pulse (R159). -/
abbrev pulseTicks : Nat := 64
/-- Gap count at which a frame in progress is discarded (R164). -/
abbrev gapTicks : Nat := 128
/-- Increments in the unit of a POLL gap (R30). -/
abbrev pollGapUnit : Nat := 64
/-- The hold limit after either reset (R170). -/
abbrev holdLimitReset : Nat := 16
/-- The stretch limit after either reset (R106). -/
abbrev stretchLimitReset : BitVec 16 := 1638
/-- The settle time after either reset (R106). -/
abbrev settleTimeReset : BitVec 16 := 6554

end Sys2Proof.Config
end

