-- ==== Sys2Proof/Machine/State.lean ====
section
/-! DEFINITION. The state of the NK284: every register, list, counter, mode and pin the spec gives it,
as plain data, with its value after a pin reset; and the reasons a step can stop (none). -/

namespace Sys2Proof.Machine

/-! ## Jobs (chapters 1 and 2) -/

/-- Direction of a transfer (R28). -/
inductive Direction where
  | w
  | r
deriving DecidableEq, Repr

/-- Mode of a PAUSE (R28). -/
inductive PauseMode where
  | hold
  | free
deriving DecidableEq, Repr

/-- One step of a step list, with the arguments of its kind (R28). -/
inductive Step where
  | address (target : BitVec 7) (dir : Direction)
  | poll (target : BitVec 7) (limit gap : Nat)
  | write (count : Nat)
  | read (count : Nat)
  | stop
  | pause (mode : PauseMode) (ticks : Nat)
  | mark
deriving DecidableEq, Repr

/-- What starts a job's run (record table of chapter 1). -/
inductive Trigger where
  | now
  | atTime (time : Time)
  | every (period phase : BitVec 32) (runs : BitVec 16)
  | event (line : Nat) (count : Nat)
deriving DecidableEq, Repr

/-- The states of a live job (R4). -/
inductive JobState where
  | pending
  | ready
  | active
  | done
deriving DecidableEq, Repr

/-- Job outcomes (section 10.7). -/
inductive JobOutcome where
  | done
  | absent
  | refused
  | pollLimit
  | arbLost
  | arbLostPartial
  | stalled
  | detached
  | cancelled
  | expired
  | portClosed
deriving DecidableEq, Repr

/-- The run record of a job (run record table of chapter 1; R147). -/
structure RunRecord where
  triggerTime : Time
  late        : Bool
  startTime   : Time
  endTime     : Time
  marks       : List Time
  curStep     : Nat
  curByte     : Nat
  failStep    : Nat
  failByte    : Nat
  received    : Nat
  retriesUsed : Nat
  outcome     : Option JobOutcome
deriving DecidableEq, Repr

/-- The cleared run record. -/
def RunRecord.cleared : RunRecord where
  triggerTime := 0
  late        := false
  startTime   := 0
  endTime     := 0
  marks       := []
  curStep     := 0
  curByte     := 0
  failStep    := 0
  failByte    := 0
  received    := 0
  retriesUsed := 0
  outcome     := none

/-- A job record (record table of chapter 1). `port` is `none` for NONE. -/
structure Job where
  tag         : Tag
  admission   : BitVec 32
  port        : Option PortId
  trigger     : Trigger
  deadline    : Option Time
  retries     : Nat
  retriesLeft : Nat
  unbreakable : Bool
  holdReply   : Bool
  replyHeld   : Bool
  steps       : List Step
  writeLen    : Nat
  readTotal   : Nat
  blocks      : List Nat
  state       : JobState
  ending      : Bool
  stopping    : Bool
  countdown   : Nat
  runsDone    : Nat
  missed      : Nat
  standing    : Bool
  runRes      : Bool
  run         : RunRecord
deriving DecidableEq, Repr

/-! ## Event lines (chapter 4) -/

/-- The edge setting of a line (R67). -/
inductive EdgeSetting where
  | off
  | rising
  | falling
  | both
deriving DecidableEq, Repr

/-- The capture mode of a line (R67). -/
inductive CaptureMode where
  | last
  | first
deriving DecidableEq, Repr

/-- The polarity of an edge (R71). -/
inductive Polarity where
  | rising
  | falling
deriving DecidableEq, Repr

/-- A settled level (R70). -/
inductive SettledLevel where
  | low
  | high
  | unknown
deriving DecidableEq, Repr

/-- The state of a source's notice (R73, R120). -/
inductive NoticeState where
  | none
  | owed
  | queued
deriving DecidableEq, Repr

/-- The four settings of a line (R67). -/
structure LineConfig where
  edge     : EdgeSetting
  mode     : CaptureMode
  filter   : Nat
  noticeEn : Bool
deriving DecidableEq, Repr

/-- The sampler of a line (R70). -/
structure Sampler where
  settled  : SettledLevel
  runCount : Nat
  runStart : Time
deriving DecidableEq, Repr

/-- The capture record of a line without its notice state (R73). -/
structure Capture where
  held     : Bool
  time     : Time
  polarity : Polarity
  count    : Nat
deriving DecidableEq, Repr

/-- An event line: settings, sampler, capture record and notice state (R66 to R73). -/
structure Line where
  config  : LineConfig
  sampler : Sampler
  capture : Capture
  notice  : NoticeState
deriving DecidableEq, Repr

/-- A sampler after a reset or a hand-over of its pin (R69, R70, R87). -/
def Sampler.cleared : Sampler where
  settled  := .unknown
  runCount := 0
  runStart := 0

/-- A cleared capture record (R73). -/
def Capture.cleared : Capture where
  held     := false
  time     := 0
  polarity := .rising
  count    := 0

/-- A line after either reset (R87). -/
def Line.reset : Line where
  config  := { edge := .off, mode := .last, filter := 0, noticeEn := false }
  sampler := Sampler.cleared
  capture := Capture.cleared
  notice  := .none

/-! ## Ports (chapters 6 and 7) -/

/-- A port's mode (R106). -/
inductive PortMode where
  | off
  | shared
  | sole
deriving DecidableEq, Repr

/-- A port's speed (R106). -/
inductive Speed where
  | standard
  | fast
  | plus
deriving DecidableEq, Repr

/-- A port's slowing, in percent (R106). -/
inductive Slowing where
  | pct0
  | pct10
  | pct20
  | pct30
deriving DecidableEq, Repr

/-- A port's presence setting (R106). -/
inductive PresenceSetting where
  | ignore
  | require
deriving DecidableEq, Repr

/-- The seven settings of a port (R106). -/
structure PortSettings where
  mode         : PortMode
  speed        : Speed
  slowing      : Slowing
  stretchLimit : BitVec 16
  presence     : PresenceSetting
  settleTime   : BitVec 16
  noticeEn     : Bool
deriving DecidableEq, Repr

/-- What began a recovery (R117). -/
inductive Origin where
  | run
  | enable
  | settle
  | stuck
deriving DecidableEq, Repr

/-- What follows the STOP a run is giving (R133, R135 to R138, R140, R144). -/
inductive AfterStop where
  /-- a STOP step: the next step. -/
  | step
  /-- the STOP of a PAUSE FREE: the wait. -/
  | pauseFree
  /-- the STOP after a NAKed POLL attempt: the gap. -/
  | pollGap
  /-- the implied STOP: the run ends DONE. -/
  | implied
  /-- the STOP of R140: the run ends with the outcome already written. -/
  | failed
  /-- the STOP of the stopping sequence: the run ends CANCELLED. -/
  | stopping
deriving DecidableEq, Repr

/-- Where a run stands on the wire (R131 to R138). -/
inductive Phase where
  /-- dispatched; the run start has not been taken. -/
  | runStart
  /-- before or in the START or repeated START of an ADDRESS step or POLL attempt. -/
  | start
  /-- in the address byte of an ADDRESS step. -/
  | address
  /-- in the address byte of a POLL attempt. -/
  | poll
  /-- in a POLL gap. -/
  | pollGap
  /-- in the write byte at current byte. -/
  | write
  /-- in the read byte at current byte. -/
  | read
  /-- in the wait of a PAUSE HOLD. -/
  | pauseHold
  /-- in the wait of a PAUSE FREE. -/
  | pauseFree
  /-- in a STOP condition. -/
  | stop (after : AfterStop)
deriving DecidableEq, Repr

/-- The run-local state of a port (R130), with the slot of the ACTIVE job, whether this run has given
its first START (R131), the place of the run on the wire, and the readings of SDA in the bits taken of the byte
in progress, the first bit first (R124, R127). -/
structure Run where
  slot        : Nat
  phase       : Phase
  held        : Bool
  committed   : Bool
  started     : Bool
  writeCursor : Nat
  readCursor  : Nat
  attempts    : Nat
  pauseCount  : Nat
  bits        : List Bool
deriving DecidableEq, Repr

/-- Where a recovery stands between two commands (R117): waiting for SCL at stage 1; in the pulse with
this number, stages 3 and 4; in the STOP of stage 5, with the pulses given. -/
inductive RecoveryStage where
  | release
  | pulse (number : Nat)
  | stop (pulses : Nat)
deriving DecidableEq, Repr

/-- A port's state (R111), with what the port keeps only while in it: the settle count (R115), the
run-local state (R130), the recovery's origin, stage and pulse count (R117), the re-check count (R119).
-/
inductive PortState where
  | off
  | detached
  | settling (count : Nat)
  | idle
  | running (run : Run)
  | recovering (origin : Origin) (stage : RecoveryStage)
  | stuck (recheck : Nat)
deriving DecidableEq, Repr

/-- The port states as GET_PORT, GET_SUMMARY and port notices show them (section 10.5). -/
inductive ShownState where
  | off
  | detached
  | settling
  | idle
  | running
  | recovering
  | stuck
deriving DecidableEq, Repr

/-- A bus tracker (R128); while BUSY it counts the consecutive increments with both lines high. -/
inductive Tracker where
  | free
  | busy (highTicks : Nat)
deriving DecidableEq, Repr

/-- What a port does with an open-drain line: pulls it low or releases it (R124). -/
inductive Pull where
  | released
  | low
deriving DecidableEq, Repr

/-- What a port drives on its two lines (R123, R124), as the last completed bit or condition left them
and the wait or condition in progress holds them (log 29). -/
structure Drive where
  scl : Pull
  sda : Pull
deriving DecidableEq, Repr

/-- Both lines released. -/
def Drive.released : Drive := { scl := .released, sda := .released }

/-- SCL low and SDA released: the bus held between two bits, or a clock pulse of a recovery (R117, R124,
R137). -/
def Drive.holding : Drive := { scl := .low, sda := .released }

/-- Both lines low: after a START, and at the beginning of a STOP (R117, R126). -/
def Drive.bothLow : Drive := { scl := .low, sda := .low }

/-- The ninth bit that a port gives to a byte it receives: SDA pulled low or released (R127, R135). -/
inductive Acknowledge where
  | ack
  | nak
deriving DecidableEq, Repr

/-- A port controller (R106 to R130). `tracker` is `none` where the port keeps none; `pulls` is what the
port did with SDA in the bits taken of the byte in progress, or between bytes of the last one, in their
order; `sent` is the last byte the port sent whole on its bus, and `gave` the ninth bit it gave to the
last byte it received whole (log 30). -/
structure Port where
  settings : PortSettings
  state    : PortState
  drive    : Drive
  pulls    : List Pull
  sent     : Option Byte
  gave     : Option Acknowledge
  present  : Bool
  presRun  : Nat
  stretch  : Nat
  tracker  : Option Tracker
  ready    : List Nat
  notice   : NoticeState
deriving DecidableEq, Repr

/-- A port after either reset (R106, R123). -/
def Port.reset : Port where
  settings := {
    mode         := .off
    speed        := .standard
    slowing      := .pct0
    stretchLimit := Config.stretchLimitReset
    presence     := .ignore
    settleTime   := Config.settleTimeReset
    noticeEn     := true }
  state    := .off
  drive    := Drive.released
  pulls    := []
  sent     := none
  gave     := none
  present  := false
  presRun  := 0
  stretch  := 0
  tracker  := none
  ready    := []
  notice   := .none

/-! ## Reports (chapter 8) -/

/-- A job report (R18, R177); the carried length is the length of `data`. -/
structure JobReport where
  tag         : Tag
  outcome     : JobOutcome
  late        : Bool
  last        : Bool
  long        : Bool
  runNumber   : Nat
  missed      : Nat
  retriesUsed : Nat
  failStep    : Nat
  failByte    : Nat
  triggerTime : Time
  startTime   : Time
  endTime     : Time
  marks       : List Time
  received    : Nat
  data        : List Byte
deriving DecidableEq, Repr

/-- A report record (R149): a job report, an event notice (R84) or a port notice (R120). -/
inductive Report where
  | job (report : JobReport)
  | event (line : Nat) (polarity : Polarity) (count : Nat) (edgeTime noticeTime : Time)
  | port (port : PortId) (shown : ShownState) (noticeTime : Time)
deriving DecidableEq, Repr

/-- A notice source (R153). -/
inductive Source where
  | line (line : Nat)
  | port (port : PortId)
deriving DecidableEq, Repr

/-- The ATTN mode (R158). -/
inductive AttnMode where
  | level
  | pulse
deriving DecidableEq, Repr

/-- The ATTN enables, one for each report kind (R158). -/
structure Enables where
  job   : Bool
  event : Bool
  port  : Bool
deriving DecidableEq, Repr

/-- The report queue and the ATTN settings (R148, R158); `pulse` is the pulse count of the pulse in
progress. -/
structure ReportQueue where
  queued   : List Report
  reserved : Nat
  owed     : List Source
  attnMode : AttnMode
  enables  : Enables
  pulse    : Option Nat
deriving DecidableEq, Repr

/-- The report queue after either reset (R161). -/
def ReportQueue.reset : ReportQueue where
  queued   := []
  reserved := 0
  owed     := []
  attnMode := .level
  enables  := { job := true, event := true, port := true }
  pulse    := none

/-! ## Host link (chapter 9) -/

/-- The frame parser (R164), with the bytes it has kept of the frame in progress. -/
inductive Parser where
  | hunt
  | length (first : Option Byte)
  | body (len : Nat) (bytes : List Byte)
  | check (len : Nat) (bytes : List Byte) (first : Option Byte)
deriving DecidableEq, Repr

/-- A request frame's content (R163). -/
structure Request where
  kind    : Byte
  lseq    : Byte
  payload : List Byte
deriving DecidableEq, Repr

/-- A reply frame's content (R163, R176). -/
structure Reply where
  kind    : Byte
  lseq    : Byte
  payload : List Byte
deriving DecidableEq, Repr

/-- The held-reply slot (R168). -/
inductive HeldSlot where
  | empty
  | held (tag : Tag) (lseq : Byte) (count : Nat)
  | waitingRoom (reply : Reply)
deriving DecidableEq, Repr

/-- The host link (R162 to R174). `sent` holds the levels of TXD, one for each bit time, over the last
reply sent whole; `true` is high (log 16). -/
structure Link where
  rate         : BitVec 2
  parser       : Parser
  gap          : Nat
  inHand       : Option Request
  tx           : List Reply
  slot         : HeldSlot
  holdLimit    : Nat
  resetPending : Bool
  sent         : List Bool
deriving DecidableEq, Repr

/-- The host link after a pin reset with straps `rate` (R174). -/
def Link.reset (rate : BitVec 2) : Link where
  rate         := rate
  parser       := .hunt
  gap          := 0
  inHand       := none
  tx           := []
  slot         := .empty
  holdLimit    := Config.holdLimitReset
  resetPending := false
  sent         := []

/-! ## The whole part -/

/-- The levels last read on the input pins; `true` is high. -/
structure Pins where
  ev   : BitVec 6
  prsA : Bool
  prsB : Bool
  a    : Levels
  b    : Levels
deriving DecidableEq, Repr

/-- Every input at its released level (log 10). -/
def Pins.released : Pins where
  ev   := 0b111111
  prsA := true
  prsB := true
  a    := { scl := true, sda := true }
  b    := { scl := true, sda := true }

/-- What the present tick increment has still to do (R56, R75; log 3): the slots the time base has yet
to evaluate, oldest job first; the lines on which an edge is to be detected, whether the event unit
has begun, the EVENT jobs to be triggered with their edge times, oldest job first, and the lines to
ask for a notice. `ahead` marks an act of the increment that comes before the time base's event, while it
is taken (log 4). -/
structure TickWork where
  evals    : List Nat
  edges    : List Nat
  edging   : Bool
  triggers : List (Nat × Time)
  asks     : List Nat
  ahead    : Bool
deriving DecidableEq, Repr

/-- Nothing left to do. -/
def TickWork.none : TickWork where
  evals    := []
  edges    := []
  edging   := false
  triggers := []
  asks     := []
  ahead    := false

/-- The state of the NK284 and the queue of commands waiting for it. -/
structure State where
  pending : List Instr
  slots   : List (Option Job)
  counter : BitVec 32
  pool    : List Host.Cell
  time    : Time
  timeSet : Bool
  lines   : List Line
  tick    : TickWork
  pins    : Pins
  portA   : Port
  portB   : Port
  reports : ReportQueue
  link    : Link
deriving DecidableEq, Repr

/-- The NK284 right after a pin reset (R27, R41, R51, R87, R123, R161, R174). The straps (log 11), the
pins (log 10), the run starts (log 13) and the pool's contents (log 12) are the model's choice. -/
def State.reset : State where
  pending := []
  slots   := List.replicate Config.jobSlots none
  counter := 0
  pool    := []
  time    := 0
  timeSet := false
  lines   := List.replicate Config.eventLines Line.reset
  tick    := TickWork.none
  pins    := Pins.released
  portA   := Port.reset
  portB   := Port.reset
  reports := ReportQueue.reset
  link    := Link.reset 0

/-- Why a step stops with a fault: never. The spec describes no fault of the part (refused requests are
answered, failed runs get an outcome), so there is no constructor; nobody raises one, which is
safe. -/
inductive Fault where
deriving DecidableEq, Repr

/-- Why a command is refused. -/
inductive Refusal where
  /-- Raised by an arm of `exec` for a command that has no meaning yet; no arm does. Safe: nothing can
  be proved of a run that stops. -/
  | notModelled (mnemonic : String)
deriving DecidableEq, Repr

end Sys2Proof.Machine
end

