-- ==== Sys2Proof/Machine/Flags.lean ====
section
/-! DEFINITION. The flag bytes of the message formats (sections 10.3, 10.5, 10.6): the descriptor's
flags, the ATTN enables, the record flags of JOB_STATUS and the report flags of a JOB record. -/

namespace Sys2Proof.Machine

/-- The bit `mask` when the flag is set, else 0. -/
def flagBit (mask : Byte) (set : Bool) : Byte := if set then mask else 0

/-- Whether every set bit of `b` is among `defined` (R175). -/
def bitsWithin (defined b : Byte) : Bool := b &&& ~~~defined == 0

/-- The defined bits of the descriptor's flags byte: UNBREAKABLE 01h, HOLD_REPLY 02h (section 10.3). -/
def descriptorFlags : Byte := 0x03

/-- UNBREAKABLE in the descriptor's flags byte. -/
def flagUnbreakable (b : Byte) : Bool := b &&& 0x01 != 0

/-- HOLD_REPLY in the descriptor's flags byte. -/
def flagHoldReply (b : Byte) : Bool := b &&& 0x02 != 0

/-- The defined bits of SET_LINK's enables byte: JOB 01h, EVENT 02h, PORT 04h (section 10.5). -/
def enableFlags : Byte := 0x07

/-- The enables a SET_LINK byte gives (R170). -/
def enablesOf (b : Byte) : Enables where
  job   := b &&& 0x01 != 0
  event := b &&& 0x02 != 0
  port  := b &&& 0x04 != 0

/-- The record flags of JOB_STATUS: ending 01h, stopping 02h, reply held 04h (section 10.5). -/
def recordFlags (j : Job) : Byte :=
  flagBit 0x01 j.ending ||| flagBit 0x02 j.stopping ||| flagBit 0x04 j.replyHeld

/-- The report flags of a JOB record: LATE 01h, LAST 02h, LONG 04h (R177). -/
def reportFlags (r : JobReport) : Byte :=
  flagBit 0x01 r.late ||| flagBit 0x02 r.last ||| flagBit 0x04 r.long

end Sys2Proof.Machine
end

