-- ==== Sys2Proof/Machine/Operands.lean ====
section
/-! DEFINITION. Message fields and codes (chapter 10): byte order, the code tables, report records, the
frame and its CRC. -/

namespace Sys2Proof.Machine

/-! ## Multi-byte fields: most significant byte first (00_scope.md, Byte order) -/

/-- The `k` low bytes of `n`, most significant first. -/
def bytesBE : Nat → Nat → List Byte
  | 0, _ => []
  | k + 1, n => BitVec.ofNat 8 (n / 256 ^ k) :: bytesBE k n

/-- The number a list of bytes spells, most significant first. -/
def natBE (bs : List Byte) : Nat := bs.foldl (fun n b => n * 256 + b.toNat) 0

/-- The unsigned field of `size` bytes at offset `off` of a payload. -/
def fieldAt (p : List Byte) (off size : Nat) : Nat := natBE ((p.drop off).take size)

/-- The byte at offset `off` of a payload (0 beyond its end). -/
def byteAt (p : List Byte) (off : Nat) : Byte := p.getD off 0

/-- The time value at offset `off` (section 10.1). -/
def timeAt (p : List Byte) (off : Nat) : Time := BitVec.ofNat 48 (fieldAt p off 6)

/-- The tag at offset 0. -/
def tagAt (p : List Byte) : Tag := BitVec.ofNat 16 (fieldAt p 0 2)

/-- One byte. -/
def b1 (n : Nat) : Byte := BitVec.ofNat 8 n

/-- A time value's six bytes (section 10.1). -/
def timeBytes (t : Time) : List Byte := bytesBE 6 t.toNat

/-- A tag's two bytes. -/
def tagBytes (t : Tag) : List Byte := bytesBE 2 t.toNat

/-- A yes/no or on/off byte. -/
def boolCode (b : Bool) : Byte := if b then 1 else 0

/-! ## Statuses and request kinds (section 10.7) -/

/-- The reply statuses (section 10.7). -/
inductive Status where
  | ok
  | cancelled
  | stopping
  | ending
  | pendingNotify
  | badLength
  | badField
  | badSteps
  | unknownKind
  | linkBusy
  | dupTag
  | tableFull
  | noSpace
  | queueFull
  | pastDeadline
  | portOff
  | portBusy
  | pinInUse
  | noSuchJob
  | notDone
  | alreadyDone
  | tooLate
  | stale
deriving DecidableEq, Repr

/-- A status's code. -/
def Status.code : Status → Byte
  | .ok => 0x00
  | .cancelled => 0x01
  | .stopping => 0x02
  | .ending => 0x03
  | .pendingNotify => 0x04
  | .badLength => 0x10
  | .badField => 0x11
  | .badSteps => 0x12
  | .unknownKind => 0x13
  | .linkBusy => 0x14
  | .dupTag => 0x20
  | .tableFull => 0x21
  | .noSpace => 0x22
  | .queueFull => 0x23
  | .pastDeadline => 0x24
  | .portOff => 0x25
  | .portBusy => 0x26
  | .pinInUse => 0x27
  | .noSuchJob => 0x30
  | .notDone => 0x31
  | .alreadyDone => 0x32
  | .tooLate => 0x33
  | .stale => 0x34

/-- A BAD_FIELD payload: the status and the offset of the refused field or byte (R176). -/
def badField (off : Nat) : List Byte := Status.badField.code :: bytesBE 2 off

/-- The request kinds of section 10.5. -/
inductive Kind where
  | ping
  | getSummary
  | setLink
  | reset
  | getTime
  | setTime
  | configLine
  | getCapture
  | clearCapture
  | configPort
  | getPort
  | submit
  | cancel
  | jobStatus
  | fetch
  | release
  | readReports
deriving DecidableEq, Repr

/-- A request kind's code (section 10.5). -/
def Kind.code : Kind → Byte
  | .ping => 0x01
  | .getSummary => 0x02
  | .setLink => 0x03
  | .reset => 0x0F
  | .getTime => 0x10
  | .setTime => 0x11
  | .configLine => 0x20
  | .getCapture => 0x21
  | .clearCapture => 0x22
  | .configPort => 0x30
  | .getPort => 0x31
  | .submit => 0x40
  | .cancel => 0x41
  | .jobStatus => 0x42
  | .fetch => 0x43
  | .release => 0x44
  | .readReports => 0x50

/-- Every request kind. -/
def Kind.all : List Kind :=
  [.ping, .getSummary, .setLink, .reset, .getTime, .setTime, .configLine, .getCapture,
   .clearCapture, .configPort, .getPort, .submit, .cancel, .jobStatus, .fetch, .release,
   .readReports]

/-- Whether a KIND byte is a request kind (R166). -/
def knownKind (k : Byte) : Bool := Kind.all.any (fun x => x.code == k)

/-- Whether a payload size is the one the kind requires (R166, R175; section 10.5). -/
def Kind.sizeOk : Kind → Nat → Bool
  | .ping, n | .getSummary, n | .reset, n | .getTime, n => n == 0
  | .setLink, n => n == 3
  | .setTime, n => n == 7
  | .configLine, n => n == 5
  | .getCapture, n | .getPort, n | .readReports, n => n == 1
  | .clearCapture, n | .cancel, n | .jobStatus, n | .release, n => n == 2
  | .configPort, n => n == 10
  | .fetch, n => n == 6
  | .submit, n => Config.descriptorBytes ≤ n

/-- The KIND of a reply: the request's KIND + 80h (R166). -/
def replyKind (k : Byte) : Byte := k + 0x80

/-! ## Code tables (section 10.5) -/

/-- Edge setting from its code. -/
def EdgeSetting.ofCode (b : Byte) : Option EdgeSetting :=
  if b = 0 then some .off else if b = 1 then some .rising
  else if b = 2 then some .falling else if b = 3 then some .both else none

/-- Edge setting code. -/
def EdgeSetting.code : EdgeSetting → Byte
  | .off => 0
  | .rising => 1
  | .falling => 2
  | .both => 3

/-- Capture mode from its code. -/
def CaptureMode.ofCode (b : Byte) : Option CaptureMode :=
  if b = 0 then some .last else if b = 1 then some .first else none

/-- Capture mode code. -/
def CaptureMode.code : CaptureMode → Byte
  | .last => 0
  | .first => 1

/-- Polarity code. -/
def Polarity.code : Polarity → Byte
  | .rising => 0
  | .falling => 1

/-- Settled level code. -/
def SettledLevel.code : SettledLevel → Byte
  | .low => 0
  | .high => 1
  | .unknown => 2

/-- Notice state code. -/
def NoticeState.code : NoticeState → Byte
  | .none => 0
  | .owed => 1
  | .queued => 2

/-- An on/off field (R175). -/
def onOffOfCode (b : Byte) : Option Bool :=
  if b = 0 then some false else if b = 1 then some true else none

/-- Port from its code in CONFIG_PORT, GET_PORT and notices: A 01h, B 02h. -/
def portOfCode (b : Byte) : Option PortId :=
  if b = 1 then some .a else if b = 2 then some .b else none

/-- Port code. -/
def portCode : PortId → Byte
  | .a => 1
  | .b => 2

/-- A job's port from its code in the descriptor: NONE 00h, A 01h, B 02h (section 10.3). -/
def jobPortOfCode (b : Byte) : Option (Option PortId) :=
  if b = 0 then some none else (portOfCode b).map some

/-- Port mode from its code. -/
def PortMode.ofCode (b : Byte) : Option PortMode :=
  if b = 0 then some .off else if b = 1 then some .shared else if b = 2 then some .sole else none

/-- Port mode code. -/
def PortMode.code : PortMode → Byte
  | .off => 0
  | .shared => 1
  | .sole => 2

/-- Speed from its code. -/
def Speed.ofCode (b : Byte) : Option Speed :=
  if b = 0 then some .standard else if b = 1 then some .fast else if b = 2 then some .plus else none

/-- Speed code. -/
def Speed.code : Speed → Byte
  | .standard => 0
  | .fast => 1
  | .plus => 2

/-- Slowing from its code. -/
def Slowing.ofCode (b : Byte) : Option Slowing :=
  if b = 0 then some .pct0 else if b = 1 then some .pct10
  else if b = 2 then some .pct20 else if b = 3 then some .pct30 else none

/-- Slowing code. -/
def Slowing.code : Slowing → Byte
  | .pct0 => 0
  | .pct10 => 1
  | .pct20 => 2
  | .pct30 => 3

/-- Presence setting from its code. -/
def PresenceSetting.ofCode (b : Byte) : Option PresenceSetting :=
  if b = 0 then some .ignore else if b = 1 then some .require else none

/-- Presence setting code. -/
def PresenceSetting.code : PresenceSetting → Byte
  | .ignore => 0
  | .require => 1

/-- Port state and reported state code. -/
def ShownState.code : ShownState → Byte
  | .off => 0
  | .detached => 1
  | .settling => 2
  | .idle => 3
  | .running => 4
  | .recovering => 5
  | .stuck => 6

/-- Job state code. -/
def JobState.code : JobState → Byte
  | .pending => 0
  | .ready => 1
  | .active => 2
  | .done => 3

/-- Job outcome code (section 10.7). -/
def JobOutcome.code : JobOutcome → Byte
  | .done => 0
  | .absent => 1
  | .refused => 2
  | .pollLimit => 3
  | .arbLost => 4
  | .arbLostPartial => 5
  | .stalled => 6
  | .detached => 7
  | .cancelled => 8
  | .expired => 9
  | .portClosed => 10

/-- ATTN mode from its code. -/
def AttnMode.ofCode (b : Byte) : Option AttnMode :=
  if b = 0 then some .level else if b = 1 then some .pulse else none

/-- The port's clock frequency in kHz: the nominal frequency × (100 − slowing)/100 (R106, R124). -/
def PortSettings.clockKHz (c : PortSettings) : Nat :=
  let nominal := match c.speed with
    | .standard => 100
    | .fast => 400
    | .plus => 1000
  let slow := match c.slowing with
    | .pct0 => 0
    | .pct10 => 10
    | .pct20 => 20
    | .pct30 => 30
  nominal * (100 - slow) / 100

/-! ## Report records (R177) -/

/-- The bytes of a JOB record (R177). A mark not taken is six bytes of 0. -/
def JobReport.bytes (r : JobReport) : List Byte :=
  [0x01] ++ tagBytes r.tag ++ [r.outcome.code, reportFlags r] ++ bytesBE 2 r.runNumber
    ++ [b1 r.missed, b1 r.retriesUsed, b1 r.failStep, b1 r.failByte]
    ++ timeBytes r.triggerTime ++ timeBytes r.startTime ++ timeBytes r.endTime
    ++ [b1 r.marks.length] ++ timeBytes (r.marks.getD 0 0) ++ timeBytes (r.marks.getD 1 0)
    ++ bytesBE 2 r.received ++ [b1 r.data.length] ++ r.data

/-- The bytes of a report record (R177). -/
def Report.bytes : Report → List Byte
  | .job r => r.bytes
  | .event line pol count edge notice =>
    [0x02, b1 line, pol.code, b1 count] ++ timeBytes edge ++ timeBytes notice
  | .port p shown notice => [0x03, portCode p, shown.code] ++ timeBytes notice

/-! ## The frame (R163) -/

/-- One shift of the CRC register (R163). -/
def crcShift (r : BitVec 16) : BitVec 16 :=
  if r.getLsbD 15 then (r <<< 1) ^^^ 0x1021 else r <<< 1

/-- `n` shifts of the CRC register. -/
def crcShifts : Nat → BitVec 16 → BitVec 16
  | 0, r => r
  | n + 1, r => crcShifts n (crcShift r)

/-- One byte taken into the CRC register (R163). -/
def crcByte (r : BitVec 16) (b : Byte) : BitVec 16 :=
  crcShifts 8 (r ^^^ (b.zeroExtend 16 <<< 8))

/-- The CRC of a list of bytes: the register starts at FFFFh (R163). -/
def crc (bs : List Byte) : BitVec 16 := bs.foldl crcByte 0xFFFF

/-- What the CHK of a frame covers: LEN, then KIND, LSEQ and payload (R163). -/
def chkCovers (body : List Byte) : List Byte := bytesBE 2 body.length ++ body

/-- The CHK of a frame whose KIND, LSEQ and payload are `body` (R163). -/
def chkOf (body : List Byte) : BitVec 16 := crc (chkCovers body)

/-- The bytes of a reply frame (R163). -/
def Reply.frame (r : Reply) : List Byte :=
  let body := r.kind :: r.lseq :: r.payload
  0xA5 :: (chkCovers body ++ bytesBE 2 (chkOf body).toNat)

/-! ## The serial form (R162) -/

/-- A byte on TXD: the start bit low, the eight data bits with the least significant first, the stop bit
high (R162). -/
def serialBits (b : Byte) : List Bool :=
  false :: (List.range 8).map (fun k => b.getLsbD k) ++ [true]

/-- The levels of TXD, one for each bit time, over a reply: its bytes back to back (R162, R167). -/
def Reply.levels (r : Reply) : List Bool := r.frame.flatMap serialBits

/-- The byte that eight data bits spell, the least significant first (R162). -/
def byteOfBits (data : List Bool) : Byte :=
  BitVec.ofNat 8 (data.foldr (fun bit n => 2 * n + bit.toNat) 0)

/-- The level of TXD, where no reply is being sent: between replies it rests high (R162). While one is,
it goes through the bits of its bytes, which no command shows (log 6, log 16). -/
def Link.txdAtRest (l : Link) : Option Bool := if l.tx.isEmpty then some true else none

/-! ## A byte on a bus (R127) -/

/-- Bit `k` of a byte on a bus, counted from 0: the most significant bit comes first (R127). -/
def busBit (b : Byte) (k : Nat) : Bool := b.getLsbD (7 - k)

/-- The byte that eight readings of SDA spell, the most significant bit first (R127). -/
def byteOfReadings (bits : List Bool) : Byte :=
  BitVec.ofNat 8 (bits.foldl (fun n bit => 2 * n + bit.toNat) 0)

end Sys2Proof.Machine
end

