-- ==== Sys2Proof/Machine/Ops.lean ====
section
/-! DEFINITION. The shared operations over slots, lines, ports, the report queue and the held reply
(chapters 1, 8 and 9). -/

namespace Sys2Proof.Machine

/-! ## Accessors -/

/-- The controller of a port. -/
def State.port (s : State) (p : PortId) : Port :=
  match p with
  | .a => s.portA
  | .b => s.portB

/-- Replaces a port's controller. -/
def State.setPort (s : State) (p : PortId) (x : Port) : State :=
  match p with
  | .a => { s with portA := x }
  | .b => { s with portB := x }

/-- The job in a slot (R1). -/
def State.job? (s : State) (slot : Nat) : Option Job := s.slots.getD slot none

/-- Puts a job record in a slot. -/
def State.setJob (s : State) (slot : Nat) (j : Job) : State :=
  { s with slots := s.slots.set slot (some j) }

/-- Makes a slot free. -/
def State.clearSlot (s : State) (slot : Nat) : State :=
  { s with slots := s.slots.set slot none }

/-- Changes the job in a slot, where there is one. -/
def State.modifyJob (s : State) (slot : Nat) (f : Job → Job) : State :=
  match s.job? slot with
  | some j => s.setJob slot (f j)
  | none => s

/-- Changes the run record of the job in a slot. -/
def State.modifyRecord (s : State) (slot : Nat) (f : RunRecord → RunRecord) : State :=
  s.modifyJob slot (fun j => { j with run := f j.run })

/-- An event line. -/
def State.line (s : State) (n : Nat) : Line := s.lines.getD n Line.reset

/-- Replaces an event line. -/
def State.setLine (s : State) (n : Nat) (l : Line) : State :=
  { s with lines := s.lines.set n l }

/-- Replaces the report queue. -/
def State.setReports (s : State) (q : ReportQueue) : State := { s with reports := q }

/-- Replaces the host link. -/
def State.setLink (s : State) (l : Link) : State := { s with link := l }

/-- Replaces the work left of the tick increment. -/
def State.setTick (s : State) (w : TickWork) : State := { s with tick := w }

/-- Replaces the data pool's bytes. -/
def State.setPool (s : State) (m : List Host.Cell) : State := { s with pool := m }

/-- The slot of the live job with a tag (R2). -/
def State.findSlot (s : State) (tag : Tag) : Option Nat :=
  s.slots.findIdx? (fun o => o.any (fun j => j.tag == tag))

/-- The occupied slots, ascending. -/
def State.liveSlots (s : State) : List Nat :=
  (List.range s.slots.length).filter (fun i => (s.job? i).isSome)

/-- How far a job's admission number lies below the counter, modulo 2^32 (R3). -/
def State.age (s : State) (slot : Nat) : Nat :=
  match s.job? slot with
  | some j => (s.counter - j.admission).toNat
  | none => 0

/-- Inserts behind the entries that are at least as old. R3 orders no two live jobs with one admission
number (the older one live through 2^32 admissions); the one that entered first stays ahead (log 28:
the model's choice). -/
def insertOldest {α : Type} (age : α → Nat) (x : α) : List α → List α
  | [] => [x]
  | y :: ys => if age y < age x then x :: y :: ys else y :: insertOldest age x ys

/-- Slots in admission order, the oldest job first (R3); of two with one admission number the first of
`l` stays ahead (log 28). -/
def State.admissionOrder (s : State) (l : List Nat) : List Nat :=
  l.foldl (fun order slot => insertOldest s.age slot order) []

/-- A recurring job has an EVERY trigger (R5). -/
def Job.recurring (j : Job) : Bool :=
  match j.trigger with
  | .every _ _ _ => true
  | _ => false

/-- A long job has read total greater than 48 (R5). -/
def Job.long (j : Job) : Bool := decide (Config.shortBytes < j.readTotal)

/-! ## The data pool (R41 to R46) -/

/-- The blocks the live jobs hold (R41). -/
def State.heldBlocks (s : State) : List Nat :=
  s.slots.flatMap (fun o => match o with | some j => j.blocks | none => [])

/-- The free blocks, ascending (R41). -/
def State.freeBlocks (s : State) : List Nat :=
  (List.range Config.poolBlocks).filter (fun b => !s.heldBlocks.contains b)

/-- The number of free slots (R1). -/
def State.freeSlots (s : State) : Nat := (s.slots.filter (fun o => o.isNone)).length

/-- The pool address of job offset `off` of a block sequence (R43). -/
def poolAddr (blocks : List Nat) (off : Nat) : Nat :=
  blocks.getD (off / Config.blockBytes) 0 * Config.blockBytes + off % Config.blockBytes

/-- Writes bytes at consecutive job offsets (R43, R44). -/
def writeBytes (blocks : List Nat) : Nat → List Byte → List Host.Cell → List Host.Cell
  | _, [], m => m
  | off, b :: bs, m => writeBytes blocks (off + 1) bs (Memory.write m (poolAddr blocks off) b)

/-- The pool address of read offset `r` of a job: job offset write length + r (R43). -/
def Job.readAddr (j : Job) (r : Nat) : Nat := poolAddr j.blocks (j.writeLen + r)

/-- `len` bytes of a job's read area from read offset `off` (R43). -/
def State.readArea (s : State) (j : Job) (off len : Nat) : List Byte :=
  (List.range len).map (fun i => Memory.read s.pool (j.readAddr (off + i)))

/-- The write data byte at a cursor (R31, R43). -/
def State.writeByteAt (s : State) (j : Job) (cursor : Nat) : Byte :=
  Memory.read s.pool (poolAddr j.blocks cursor)

/-! ## What a port shows (R111, R120) -/

/-- A port's state as GET_PORT shows it. -/
def PortState.shown : PortState → ShownState
  | .off => .off
  | .detached => .detached
  | .settling _ => .settling
  | .idle => .idle
  | .running _ => .running
  | .recovering _ _ => .recovering
  | .stuck _ => .stuck

/-- A port's reported state (R120). -/
def PortState.reported : PortState → ShownState
  | .off => .off
  | .detached => .detached
  | .settling _ => .settling
  | .idle => .idle
  | .running _ => .idle
  | .recovering .run _ => .idle
  | .recovering .enable _ => .idle
  | .recovering .settle _ => .settling
  | .recovering .stuck _ => .stuck
  | .stuck _ => .stuck

/-! ## The report queue (R148 to R154) -/

/-- The queue's room: 48 − queued − reserved (R148). -/
def ReportQueue.room (q : ReportQueue) : Nat :=
  Config.reportSlots - q.queued.length - q.reserved

/-- Whether a report's kind is enabled for ATTN (R149, R158). -/
def Enables.allows (e : Enables) : Report → Bool
  | .job _ => e.job
  | .event _ _ _ _ _ => e.event
  | .port _ _ _ => e.port

/-- Whether ATTN is asserted (R158, R159): in LEVEL mode while a report of an enabled kind is queued,
in PULSE mode while a pulse is in progress. -/
def ReportQueue.attn (q : ReportQueue) : Bool :=
  match q.attnMode with
  | .level => q.queued.any q.enables.allows
  | .pulse => q.pulse.isSome

/-- Places a report at the tail; in PULSE mode a report of an enabled kind starts the pulse anew
(R148, R159). -/
def ReportQueue.push (q : ReportQueue) (r : Report) : ReportQueue :=
  { q with
    queued := q.queued ++ [r]
    pulse := if q.attnMode == .pulse && q.enables.allows r then some 0 else q.pulse }

/-- A source's notice state (R73, R120). -/
def State.noticeState (s : State) : Source → NoticeState
  | .line n => (s.line n).notice
  | .port p => (s.port p).notice

/-- Sets a source's notice state. -/
def State.setNotice (s : State) (src : Source) (x : NoticeState) : State :=
  match src with
  | .line n => s.setLine n { s.line n with notice := x }
  | .port p => s.setPort p { s.port p with notice := x }

/-- A source's notice enable (R67, R106). -/
def State.noticeEnabled (s : State) : Source → Bool
  | .line n => (s.line n).config.noticeEn
  | .port p => (s.port p).settings.noticeEn

/-- A notice with the content its source has now (R84, R120). -/
def State.noticeReport (s : State) : Source → Report
  | .line n =>
    .event n (s.line n).capture.polarity (s.line n).capture.count (s.line n).capture.time s.time
  | .port p => .port p (s.port p).state.reported s.time

/-- Queues a source's notice with the content of this event (R153, R154). -/
def State.queueNotice (s : State) (src : Source) : State :=
  (s.setReports (s.reports.push (s.noticeReport src))).setNotice src .queued

/-- A source asks for a notice slot: queued where the room is at least 1, else owed at the tail of the
owed list (R83, R120, R153). -/
def State.requestNotice (s : State) (src : Source) : State :=
  if 1 ≤ s.reports.room then s.queueNotice src
  else (s.setReports { s.reports with owed := s.reports.owed ++ [src] }).setNotice src .owed

/-- A source asks where its notice enable is on and its notice state is none (R83, R120). -/
def State.askNotice (s : State) (src : Source) : State :=
  if s.noticeEnabled src && s.noticeState src == .none then s.requestNotice src else s

/-- The drain over an owed list (R154). -/
def drainOwed : List Source → State → State
  | [], s => s.setReports { s.reports with owed := [] }
  | src :: rest, s =>
    if 1 ≤ s.reports.room then drainOwed rest (s.queueNotice src)
    else s.setReports { s.reports with owed := src :: rest }

/-- The drain at a return of room (R152, R154). -/
def State.drain (s : State) : State := drainOwed s.reports.owed s

/-- Takes one reservation (R150). -/
def State.reserve (s : State) : State :=
  s.setReports { s.reports with reserved := s.reports.reserved + 1 }

/-- Gives one reservation back, which returns room (R152). -/
def State.giveBack (s : State) : State :=
  (s.setReports { s.reports with reserved := s.reports.reserved - 1 }).drain

/-- Turns one reserved place into a queued report (R151). -/
def State.consume (s : State) (r : JobReport) : State :=
  s.setReports { s.reports.push (.job r) with reserved := s.reports.reserved - 1 }

/-- Queues a job's report through its run reservation where it holds one, else through its standing
reservation; a job report is queued only through a reservation (R151, R23). -/
def State.queueJobReport (s : State) (slot : Nat) (r : JobReport) : State :=
  match s.job? slot with
  | some j =>
    if j.runRes then (s.setJob slot { j with runRes := false }).consume r
    else if j.standing then (s.setJob slot { j with standing := false }).consume r
    else s
  | none => s

/-- Gives back a job's standing reservation, if it holds it (R152). -/
def State.giveBackStanding (s : State) (slot : Nat) : State :=
  match s.job? slot with
  | some j => if j.standing then (s.setJob slot { j with standing := false }).giveBack else s
  | none => s

/-- Gives back a job's run reservation, if it holds it (R152). -/
def State.giveBackRun (s : State) (slot : Nat) : State :=
  match s.job? slot with
  | some j => if j.runRes then (s.setJob slot { j with runRes := false }).giveBack else s
  | none => s

/-- Grants a recurring job its run reservation (R60, R150). -/
def State.grantRun (s : State) (slot : Nat) : State :=
  match s.job? slot with
  | some j => (s.setJob slot { j with runRes := true }).reserve
  | none => s

/-! ## Replies and the held reply (R166 to R169) -/

/-- Places a reply at the tail of the transmit queue. -/
def State.pushReply (s : State) (r : Reply) : State :=
  s.setLink { s.link with tx := s.link.tx ++ [r] }

/-- Whether a reply is held (R168). -/
def HeldSlot.isHeld : HeldSlot → Bool
  | .empty => false
  | .held _ _ _ => true
  | .waitingRoom _ => true

/-- The tag of the job whose reply is held, 0 when none (R171). -/
def HeldSlot.tag : HeldSlot → Tag
  | .held tag _ _ => tag
  | .empty => 0
  | .waitingRoom _ => 0

/-- The held reply is built with the SUBMIT's KIND + 80h and LSEQ and goes to the transmit queue if
that has room and no RESET is pending, else it waits for room (R168, R169). -/
def State.releaseHeld (s : State) (payload : List Byte) : State :=
  match s.link.slot with
  | .held _ lseq _ =>
    let r : Reply := { kind := replyKind Kind.submit.code, lseq := lseq, payload := payload }
    if s.link.tx.length < Config.txSlots && !s.link.resetPending then
      (s.setLink { s.link with slot := .empty }).pushReply r
    else s.setLink { s.link with slot := .waitingRoom r }
  | .empty => s
  | .waitingRoom _ => s

/-! ## Ready lists (R88 to R91) -/

/-- A job joins its port's ready list at the tail (R89). -/
def State.joinTail (s : State) (p : PortId) (slot : Nat) : State :=
  s.setPort p { s.port p with ready := (s.port p).ready ++ [slot] }

/-- A job handed back joins at the head (R90). -/
def State.joinHead (s : State) (p : PortId) (slot : Nat) : State :=
  s.setPort p { s.port p with ready := slot :: (s.port p).ready }

/-- A job leaves the ready list of its port (R91). -/
def State.leaveReady (s : State) (p : PortId) (slot : Nat) : State :=
  s.setPort p { s.port p with ready := (s.port p).ready.filter (fun x => x != slot) }

end Sys2Proof.Machine
end

