-- ==== Sys2Proof/Machine/JobOps.lean ====
section
/-! DEFINITION. What the job table does to one job: triggering, marker completion, the end of a run,
ending without a run, freeing (sections 1.4 to 1.6). -/

namespace Sys2Proof.Machine

/-! ## Freeing (R24) -/

/-- Frees the job in a slot: it leaves its ready list, its reservations are given back, and slot, tag
and blocks become free (R24, R46). -/
def State.freeJob (s : State) (slot : Nat) : State :=
  match s.job? slot with
  | none => s
  | some j =>
    let s1 := match j.port with
      | some p => s.leaveReady p slot
      | none => s
    ((s1.giveBackStanding slot).giveBackRun slot).clearSlot slot

/-! ## Reports (R18, R23) -/

/-- The job report built at the end of a run (R18); `j.runsDone` has been raised. -/
def State.runReport (s : State) (j : Job) (last : Bool) : JobReport :=
  { tag := j.tag
    outcome := j.run.outcome.getD .done
    late := j.run.late
    last := last
    long := j.long
    runNumber := j.runsDone
    missed := j.missed
    retriesUsed := j.run.retriesUsed
    failStep := if j.run.outcome == some .done then 0 else j.run.failStep
    failByte := if j.run.outcome == some .done then 0 else j.run.failByte
    triggerTime := j.run.triggerTime
    startTime := j.run.startTime
    endTime := j.run.endTime
    marks := j.run.marks
    received := j.run.received
    data := s.readArea j 0 (min j.run.received Config.shortBytes) }

/-- The final report of a job that ends without a run (R23). -/
def State.endReport (s : State) (j : Job) (outcome : JobOutcome) : JobReport :=
  { tag := j.tag
    outcome := outcome
    late := if j.state == .ready then j.run.late else false
    last := true
    long := j.long
    runNumber := j.runsDone
    missed := j.missed
    retriesUsed := 0
    failStep := 0
    failByte := 0
    triggerTime := if j.state == .ready then j.run.triggerTime else 0
    startTime := s.time
    endTime := s.time
    marks := []
    received := 0
    data := [] }

/-- The held reply with a final report's content: status OK and the JOB record (R22, R177). -/
def heldPayload (r : JobReport) : List Byte := Status.ok.code :: r.bytes

/-- Sends a final report's content as the held reply; the job's reply is then no longer held (R22). -/
def State.sendHeld (s : State) (slot : Nat) (r : JobReport) : State :=
  (s.releaseHeld (heldPayload r)).modifyJob slot (fun j => { j with replyHeld := false })

/-! ## The end of a run (R18 to R22) -/

/-- The time that a comparison tests against (R53): an act that comes before the time base's event of an
increment carries the reading of the increment, and is judged by the time before it (R64; log 4). -/
def State.comparedTime (s : State) : Time := if s.tick.ahead then s.time - 1 else s.time

/-- Whether a recurring job ends at this run end, `j.runsDone` raised (R21). -/
def Job.endsAt (j : Job) (now : Time) : Bool :=
  j.run.outcome == some .cancelled
    || j.ending
    || (match j.trigger with
        | .every _ _ runs => runs != 0 && j.runsDone == runs.toNat
        | _ => false)
    || j.deadline.any (fun d => decide (d.toNat < now.toNat))

/-- A single-shot job after its final report has left: a long job enters DONE, a short one is freed
(R19, R20). -/
def State.closeSingle (s : State) (slot : Nat) (long : Bool) : State :=
  if long then s.modifyJob slot (fun j => { j with state := .done }) else s.freeJob slot

/-- The table takes the end of a run, the run record being filled (R18 to R22). -/
def State.tableRunEnd (s : State) (slot : Nat) : State :=
  match s.job? slot with
  | none => s
  | some j0 =>
    let j := { j0 with runsDone := min (j0.runsDone + 1) 65535 }
    let s1 := s.setJob slot { j with missed := 0 }
    if j.recurring then
      let ends := j.endsAt s.comparedTime
      let s2 := s1.queueJobReport slot (s.runReport j ends)
      if ends then s2.freeJob slot
      else s2.modifyJob slot (fun j =>
        { j with state := .pending, ending := false, stopping := false })
    else
      let r := s.runReport j true
      if j.replyHeld then ((s1.sendHeld slot r).giveBackStanding slot).closeSingle slot j.long
      else (s1.queueJobReport slot r).closeSingle slot j.long

/-! ## Ending without a run (R23) -/

/-- Ends a PENDING or READY job with a final report, then frees it (R22, R23). -/
def State.endWithoutRun (s : State) (slot : Nat) (outcome : JobOutcome) : State :=
  match s.job? slot with
  | none => s
  | some j =>
    let r := s.endReport j outcome
    if j.replyHeld then (s.sendHeld slot r).freeJob slot
    else (s.queueJobReport slot r).freeJob slot

/-- A CANCEL frees a PENDING or READY job without a report; a held reply is sent (R23, R97, R103). -/
def State.cancelWaiting (s : State) (slot : Nat) : State :=
  match s.job? slot with
  | none => s
  | some j =>
    if j.replyHeld then (s.sendHeld slot (s.endReport j .cancelled)).freeJob slot
    else s.freeJob slot

/-! ## Triggering (R15, R17) -/

/-- The run record a trigger leaves (R15). -/
def RunRecord.triggered (t : Time) (late : Bool) : RunRecord :=
  { RunRecord.cleared with triggerTime := t, late := late }

/-- The run record of a marker's completion (R17). -/
def RunRecord.marker (t : Time) (late : Bool) : RunRecord :=
  { RunRecord.triggered t late with startTime := t, endTime := t, outcome := some .done }

/-- Retries left after a trigger: restored for a recurring job (R15). -/
def Job.triggerRetries (j : Job) : Nat := if j.recurring then j.retries else j.retriesLeft

/-- A PENDING job is triggered: READY on its port's list, or complete where it is a marker (R15,
R17). A job that is not PENDING is not triggered (R4, R77). -/
def State.triggerJob (s : State) (slot : Nat) (t : Time) (late : Bool) : State :=
  match s.job? slot with
  | none => s
  | some j =>
    if j.state == .pending then
      match j.port with
      | some p =>
        (s.setJob slot { j with
          state := .ready
          run := RunRecord.triggered t late
          retriesLeft := j.triggerRetries }).joinTail p slot
      | none =>
        (s.setJob slot { j with
          run := RunRecord.marker t late
          retriesLeft := j.triggerRetries }).tableRunEnd slot
    else s

end Sys2Proof.Machine
end

