-- ==== Sys2Proof/Machine/PortOps.lean ====
section
/-! DEFINITION. What a port controller does by itself: its states, notices, recovery and settle, and
the run it makes on the wire (chapters 6 and 7). -/

namespace Sys2Proof.Machine

/-! ## The pins -/

/-- The levels last read on a port's two lines. -/
def State.linesOf (s : State) (p : PortId) : Levels :=
  match p with
  | .a => s.pins.a
  | .b => s.pins.b

/-- A command that reads a port's lines brings their levels. -/
def State.readLines (s : State) (p : PortId) (l : Levels) : State :=
  match p with
  | .a => { s with pins := { s.pins with a := l } }
  | .b => { s with pins := { s.pins with b := l } }

/-- A line check passes when both lines read high (R116). -/
def bothHigh (l : Levels) : Bool := l.scl && l.sda

/-! ## States and notices (R111, R118, R120) -/

/-- What a run drives at its place on the wire: nothing between transfers; SCL low while it holds the
bus, with SDA low after a START and at the beginning of a STOP and released elsewhere (R124, R126, R127,
R137, R138; log 29). -/
def Run.drive (r : Run) : Drive :=
  match r.phase with
  | .runStart => Drive.released
  | .start => if r.held then Drive.holding else Drive.released
  | .address => Drive.bothLow
  | .poll => Drive.bothLow
  | .pollGap => Drive.released
  | .write => Drive.holding
  | .read => Drive.holding
  | .pauseHold => Drive.holding
  | .pauseFree => Drive.released
  | .stop _ => Drive.bothLow

/-- What a recovery drives where it stands: nothing at stage 1; in a pulse SCL, and in the STOP both
lines, until it releases SCL and waits for it (R117; log 29). -/
def RecoveryStage.drive : RecoveryStage → Drive
  | .release => Drive.released
  | .pulse _ => Drive.holding
  | .stop _ => Drive.bothLow

/-- What a port drives as it enters a state; only a run and a recovery drive a line (R109, R111, R113,
R115, R119, R123, R146). -/
def PortState.drive : PortState → Drive
  | .running r => r.drive
  | .recovering _ stage => stage.drive
  | _ => Drive.released

/-- Moves a port to a state, with what it drives there; a wait for SCL ends with it. -/
def State.setPortState (s : State) (p : PortId) (x : PortState) : State :=
  s.setPort p { s.port p with state := x, drive := x.drive, stretch := 0 }

/-- A port enters DETACHED and asks for a notice (R113, R120). -/
def State.enterDetached (s : State) (p : PortId) : State :=
  (s.setPortState p .detached).askNotice (.port p)

/-- A port enters IDLE; `ask` says whether the entry asks for a notice (R120). -/
def State.enterIdle (s : State) (p : PortId) (ask : Bool) : State :=
  if ask then (s.setPortState p .idle).askNotice (.port p) else s.setPortState p .idle

/-- A port begins a recovery (R117). -/
def State.beginRecovery (s : State) (p : PortId) (origin : Origin) : State :=
  s.setPortState p (.recovering origin .release)

/-- A recovery fails: STUCK, with a notice unless its origin is STUCK (R118). -/
def State.failRecovery (s : State) (p : PortId) (origin : Origin) : State :=
  let s1 := s.setPortState p (.stuck 0)
  if origin == .stuck then s1 else s1.askNotice (.port p)

/-- A recovery succeeds: IDLE, with a notice for the origins SETTLE and STUCK (R118). -/
def State.endRecovery (s : State) (p : PortId) (origin : Origin) : State :=
  s.enterIdle p (origin == .settle || origin == .stuck)

/-- The end of a settle: line check, then IDLE or a recovery of origin SETTLE (R115). -/
def State.endSettle (s : State) (p : PortId) (ask : Bool) : State :=
  if bothHigh (s.linesOf p) then s.enterIdle p ask else s.beginRecovery p .settle

/-- Enters SETTLING with settle count 0; a settle time of 0 ends the settle at once (R115). -/
def State.enterSettling (s : State) (p : PortId) (ask : Bool) : State :=
  let s1 := s.setPortState p (.settling 0)
  if (s1.port p).settings.settleTime == 0 then s1.endSettle p ask else s1

/-- A line check at an entry into service: IDLE, or a recovery of origin ENABLE (R109, R110). -/
def State.enterService (s : State) (p : PortId) : State :=
  if bothHigh (s.linesOf p) then s.enterIdle p false else s.beginRecovery p .enable

/-- Stages 2 to 4 of a recovery over the readings of SDA, `pulses` being the pulses begun: the stage they
bring it to, or none where it fails (R117). -/
def recoveryStages : Nat → List Bool → Option RecoveryStage
  | pulses, [] => some (.pulse pulses)
  | pulses, true :: _ => some (.stop pulses)
  | pulses, false :: rest =>
    if Config.recoveryPulses ≤ pulses then none else recoveryStages (pulses + 1) rest

/-- The stage that the readings of SDA bring a recovery to, or none where it fails; no reading moves
nothing, and the STOP makes none (R117). -/
def RecoveryStage.after (stage : RecoveryStage) (sda : List Bool) : Option RecoveryStage :=
  if sda.isEmpty then some stage
  else match stage with
    | .release => recoveryStages 0 sda
    | .pulse n => recoveryStages n sda
    | .stop n => some (.stop n)

/-! ## The tracker (R128) -/

/-- A START is seen on the bus: a tracker becomes BUSY (log 9). -/
def State.trackStart (s : State) (p : PortId) : State :=
  match (s.port p).tracker with
  | some _ => s.setPort p { s.port p with tracker := some (.busy 0) }
  | none => s

/-- A STOP is seen on the bus, or the lines have been high long enough: a tracker becomes FREE. -/
def State.trackFree (s : State) (p : PortId) : State :=
  match (s.port p).tracker with
  | some _ => s.setPort p { s.port p with tracker := some .free }
  | none => s

/-- Whether a port's tracker, if it keeps one, lets it give a START (R128). -/
def Port.trackerFree (x : Port) : Bool :=
  match x.tracker with
  | some (.busy _) => false
  | some .free => true
  | none => true

/-- Whether the bus lets a port that does not hold it give a START: both lines read high, and a tracker
is FREE (R126, R128). -/
def Port.busFree (x : Port) (l : Levels) : Bool := bothHigh l && x.trackerFree

/-! ## Runs (R130 to R147) -/

/-- The run of a RUNNING port. -/
def State.run? (s : State) (p : PortId) : Option Run :=
  match (s.port p).state with
  | .running r => some r
  | _ => none

/-- The run-local state at a dispatch (R130). -/
def Run.begin (slot : Nat) : Run where
  slot        := slot
  phase       := .runStart
  held        := false
  committed   := false
  started     := false
  writeCursor := 0
  readCursor  := 0
  attempts    := 0
  pauseCount  := 0
  bits        := []

/-- Writes the run-local state of a RUNNING port; a wait for SCL ends with the wire's progress. -/
def State.setRun (s : State) (p : PortId) (r : Run) : State := s.setPortState p (.running r)

/-- A run that gives up the bus at the completion of its STOP releases both lines (R126). -/
def State.releaseBus (s : State) (p : PortId) (r : Run) : State :=
  s.setPort p { s.port p with state := .running r, drive := Drive.released, stretch := 0 }

/-- Whether a job's stopping field is set (R98). -/
def State.stopping (s : State) (slot : Nat) : Bool := (s.job? slot).any (fun j => j.stopping)

/-- The failing position is the current one (R36, R141, R142, R144). -/
def RunRecord.failHere (r : RunRecord) : RunRecord :=
  { r with failStep := r.curStep, failByte := r.curByte }

/-- Where a run's failing position has been written before: in the STOP of a failure and in the STOP
of the stopping sequence (R140, R141, R145). -/
def Phase.failWritten : Phase → Bool
  | .stop .failed => true
  | .stop .stopping => true
  | _ => false

/-- Writes the failing position, where none has been written (R141, R142, R145). -/
def State.noteFail (s : State) (r : Run) : State :=
  if r.phase.failWritten then s else s.modifyRecord r.slot RunRecord.failHere

/-- The values the port writes at a run end (R146, R147). -/
def RunRecord.ended (rec : RunRecord) (started : Bool) (now : Time) (o : JobOutcome) : RunRecord :=
  { rec with
    endTime := now
    startTime := if started then rec.startTime else now
    outcome := some o }

/-- A run ends: end time and outcome are written, the table takes the run end, and the port enters its
next state (R146). -/
def State.finishRun (s : State) (p : PortId) (r : Run) (o : JobOutcome) (next : PortState) : State :=
  ((s.modifyRecord r.slot (fun rec => rec.ended r.started s.time o)).tableRunEnd r.slot).setPortState
    p next

/-- The port hands its job back to the head of the ready list (R90); `retry` says whether a retry is
used (R143). -/
def State.handBack (s : State) (p : PortId) (r : Run) (retry : Bool) (next : PortState) : State :=
  ((s.modifyJob r.slot (fun j =>
      { j with
        state := .ready
        retriesLeft := if retry then j.retriesLeft - 1 else j.retriesLeft
        run := { j.run with
          retriesUsed := if retry then j.run.retriesUsed + 1 else j.run.retriesUsed } })).joinHead
    p r.slot).setPortState p next

/-- The port acts on a stopping field at a stop point: a STOP when the bus is held, else the run ends
CANCELLED (R144). -/
def State.stopHere (s : State) (p : PortId) (r : Run) : State :=
  let s1 := s.modifyRecord r.slot RunRecord.failHere
  if r.held then s1.setRun p { r with phase := .stop .stopping }
  else s1.finishRun p r .cancelled .idle

/-- A run takes the steps of its list from index `i` on, until one takes time on the wire (R132 to
R139). At the end of the list stands the implied STOP (R35, R136). -/
def takeSteps (p : PortId) (r : Run) : Nat → List Step → State → State
  | _, [], s =>
    let s1 := s.modifyRecord r.slot (fun rec => { rec with curByte := 0 })
    if s1.stopping r.slot then s1.stopHere p r
    else if r.held then s1.setRun p { r with phase := .stop .implied }
    else s1.finishRun p r .done .idle
  | i, st :: rest, s =>
    let s1 := s.modifyRecord r.slot (fun rec => { rec with curStep := i, curByte := 0 })
    if s1.stopping r.slot then s1.stopHere p r
    else
      match st with
      | .address _ _ => s1.setRun p { r with phase := .start }
      | .poll _ _ _ => s1.setRun p { r with phase := .start, attempts := 1 }
      | .write _ => s1.setRun p { r with phase := .write }
      | .read _ => s1.setRun p { r with phase := .read }
      | .stop =>
        if r.held then s1.setRun p { r with phase := .stop .step }
        else takeSteps p r (i + 1) rest s1
      | .pause .hold _ => s1.setRun p { r with phase := .pauseHold, pauseCount := 0 }
      | .pause .free _ =>
        if r.held then s1.setRun p { r with phase := .stop .pauseFree }
        else s1.setRun p { r with phase := .pauseFree, pauseCount := 0 }
      | .mark =>
        takeSteps p r (i + 1) rest
          (s1.modifyRecord r.slot (fun rec => { rec with marks := rec.marks ++ [s1.time] }))

/-- The step after the current one is taken (R28, R139). -/
def State.nextStep (s : State) (p : PortId) (r : Run) : State :=
  match s.job? r.slot with
  | some j => takeSteps p r (j.run.curStep + 1) (j.steps.drop (j.run.curStep + 1)) s
  | none => s

/-- The step a job's run is at. -/
def Job.curStep? (j : Job) : Option Step := j.steps[j.run.curStep]?

/-- The step a run is at. -/
def State.stepOf (s : State) (r : Run) : Option Step :=
  match s.job? r.slot with
  | some j => j.curStep?
  | none => none

/-- The direction bit: 0 for W, 1 for R (R127). -/
def Direction.bit : Direction → BitVec 1
  | .w => 0
  | .r => 1

/-- The address byte of an ADDRESS or of a POLL attempt: the 7-bit target, then the direction bit (R127,
R132, R133). -/
def Step.addressByte : Step → Option Byte
  | .address target dir => some (target ++ dir.bit)
  | .poll target _ _ => some (target ++ Direction.w.bit)
  | _ => none

/-- The byte a run is sending: the address byte, or the write data byte at the write cursor (R132 to
R134). -/
def State.byteToSend (s : State) (r : Run) : Option Byte :=
  match r.phase with
  | .address => (s.stepOf r).bind Step.addressByte
  | .poll => (s.stepOf r).bind Step.addressByte
  | .write => (s.job? r.slot).map (fun j => s.writeByteAt j r.writeCursor)
  | _ => none

/-- The byte a run is sending has been sent whole (R127). -/
def State.sendByte (s : State) (p : PortId) (r : Run) : State :=
  match s.byteToSend r with
  | some b => s.setPort p { s.port p with sent := some b }
  | none => s

/-- The ninth bit of a byte the port has received is given (R127, R135). -/
def State.giveNinth (s : State) (p : PortId) (nak : Bool) : State :=
  s.setPort p { s.port p with gave := some (if nak then .nak else .ack) }

/-- A READ is continued when the next step that is neither a MARK nor a PAUSE HOLD is a READ (R32). -/
def continuedBy : List Step → Bool
  | .mark :: rest => continuedBy rest
  | .pause .hold _ :: rest => continuedBy rest
  | .read _ :: _ => true
  | _ => false

/-- Whether the current byte of a READ is NAKed: the last byte of a READ that is not continued, or the
byte in progress when the stopping field is set (R135). -/
def Job.readNak (j : Job) : Bool :=
  j.stopping ||
    match j.curStep? with
    | some (.read n) =>
      decide (n ≤ j.run.curByte + 1) && !continuedBy (j.steps.drop (j.run.curStep + 1))
    | _ => false

/-- A read byte is written at the read cursor and counted (R45, R135). -/
def State.storeReadByte (s : State) (r : Run) (b : Byte) : State :=
  match s.job? r.slot with
  | some j =>
    (s.setPool (Memory.write s.pool (j.readAddr r.readCursor) b)).modifyRecord r.slot
      (fun rec => { rec with received := r.readCursor + 1 })
  | none => s

/-! ## One bit on the bus (R124, R127) -/

/-- Whether a run stands in a byte. -/
def Phase.inByte : Phase → Bool
  | .address => true
  | .poll => true
  | .write => true
  | .read => true
  | _ => false

/-- What the port does with SDA in the bit a run stands in, the first of `r.bits` and of the byte being its
most significant: in a byte it sends it pulls SDA low for a 0 and releases it for a 1, and releases it in
the ninth bit; in a byte it receives it releases SDA for eight bits, and in the ninth pulls it low for ACK
or releases it for NAK (R124, R127, R135). -/
def State.bitPull (s : State) (r : Run) : Pull :=
  let k := r.bits.length
  if r.phase == .read then
    if decide (k < 8) || (s.job? r.slot).any Job.readNak then .released else .low
  else if decide (k < 8) && (s.byteToSend r).any (fun b => !busBit b k) then .low else .released

/-- Whether arbitration is checked in the bit a run stands in: a 1 bit of an address or write byte, or the
NAK of a read byte; it is lost where SDA reads low there (R129). -/
def State.bitContested (s : State) (r : Run) : Bool :=
  s.bitPull r == .released
    && (if r.phase == .read then r.bits.length == 8 else decide (r.bits.length < 8))

/-- Steps 1 and 2 of a bit: with SCL low the port sets SDA for the bit, then releases SCL and waits for it
to read high (R124). -/
def State.openBit (s : State) (p : PortId) (r : Run) : State :=
  s.setPort p { s.port p with drive := { scl := .released, sda := s.bitPull r } }

/-- Steps 3 and 4 of a bit: SDA reads `high` in the high phase, and SCL is pulled low, which ends the bit
(R124). -/
def State.closeBit (s : State) (p : PortId) (r : Run) (high : Bool) : State :=
  let x := s.port p
  s.setPort p { x with
    state := .running { r with bits := r.bits ++ [high] }
    drive := { x.drive with scl := .low }
    pulls := (if r.bits.isEmpty then [] else x.pulls) ++ [x.drive.sda]
    stretch := 0 }

/-- The eighth bit of a read byte has been read: the byte is written and counted, and the read cursor rises
(R45, R135). -/
def State.storeAtEighth (s : State) (p : PortId) (r : Run) : State :=
  if r.phase == .read && r.bits.length == 8 then
    let s1 := s.storeReadByte r (byteOfReadings r.bits)
    s1.setPort p { s1.port p with state := .running { r with readCursor := r.readCursor + 1 } }
  else s

/-- One bit of the byte in progress (R124). -/
def State.takeBit (s : State) (p : PortId) (r : Run) (high : Bool) : State :=
  ((s.openBit p r).closeBit p r high).storeAtEighth p { r with bits := r.bits ++ [high] }

/-- Bits of the byte in progress, up to its ninth. A bit in which arbitration is lost is not taken: what
ends the run there is ARBITRATION_LOSS (R129, R142). -/
def takeBits (p : PortId) : List Bool → State → State
  | [], s => s
  | high :: rest, s =>
    match s.run? p with
    | some r =>
      if decide (r.bits.length < 9)
          && (high || (s.port p).settings.mode != .shared || !s.bitContested r) then
        takeBits p rest (s.takeBit p r high)
      else s
    | none => s

/-- A byte is over with its ninth bit: the port stands in its run `r` with no byte in progress (R127). -/
def State.endByte (s : State) (p : PortId) (r : Run) : State :=
  s.setPort p { s.port p with state := .running { r with bits := [] } }

/-- Bits of a byte on the bus in the named phase: where its ninth bit comes with them, `whole` says what
the byte does, of the run with no byte in progress and of the reading of the ninth bit. -/
def State.onBits (s : State) (p : PortId) (phase : Phase) (bits : List Bool)
    (whole : State → Run → Bool → State) : State :=
  match s.run? p with
  | some r =>
    if r.phase == phase then
      let s1 := takeBits p bits s
      match s1.run? p with
      | some r1 =>
        if r1.bits.length == 9 then
          whole (s1.endByte p r1) { r1 with bits := [] } (r1.bits.getD 8 true)
        else s1
      | none => s1
    else s
  | none => s

/-- Whether a run's phase holds a release of SCL that can meet a stretch (R125). -/
def Run.canStretch (r : Run) : Bool :=
  match r.phase with
  | .start => r.held
  | .address => true
  | .poll => true
  | .write => true
  | .read => true
  | .stop _ => true
  | .runStart => false
  | .pollGap => false
  | .pauseHold => false
  | .pauseFree => false

/-- The wait of the current PAUSE or POLL gap in tick increments (R133, R137, R138). -/
def State.waitTicks (s : State) (r : Run) : Nat :=
  match s.stepOf r with
  | some (.poll _ _ gap) => gap * Config.pollGapUnit
  | some (.pause _ ticks) => ticks
  | _ => 0

/-! ## The events a port's own counts bring about -/

/-- A stretch timeout is due: SCL still reads low at the stretch-limit-th increment (R125). -/
def State.stretchDue (s : State) (p : PortId) : Bool :=
  decide ((s.port p).settings.stretchLimit.toNat ≤ (s.port p).stretch)

/-- A stretch timeout: ends a run STALLED, or CANCELLED where the stopping field is set, with a
recovery of origin RUN; or fails a recovery (R117, R141, R145). -/
def State.stretchTimeout (s : State) (p : PortId) : State :=
  match (s.port p).state with
  | .running r =>
    if r.canStretch then
      (s.noteFail r).finishRun p r
        (if s.stopping r.slot then .cancelled else .stalled) (.recovering .run .release)
    else s
  | .recovering origin _ => s.failRecovery p origin
  | _ => s

/-- A presence change is due: 64 consecutive samples show the other level (R112). -/
def Port.presenceDue (x : Port) : Bool := decide (Config.presenceSamples ≤ x.presRun)

/-- Whether the port state looks at presence: mode not OFF and presence REQUIRE (R112). -/
def Port.looksAtPresence (x : Port) : Bool :=
  x.settings.mode != .off && x.settings.presence == .require

/-- The debounced presence takes the other value (R112). -/
def Port.flipPresence (x : Port) : Port := { x with present := !x.present, presRun := 0 }

/-- A presence loss acts on the port: a run ends DETACHED, and the port enters DETACHED (R113,
R114). -/
def State.losePresence (s : State) (p : PortId) : State :=
  match (s.port p).state with
  | .running r =>
    ((s.modifyRecord r.slot RunRecord.failHere).finishRun p r .detached .detached).askNotice (.port p)
  | _ => s.enterDetached p

/-- A presence gain acts on a DETACHED port: SETTLING (R115). -/
def State.gainPresence (s : State) (p : PortId) : State :=
  match (s.port p).state with
  | .detached => s.enterSettling p true
  | _ => s

/-- The debounced change that is due is taken (R112, R113, R115). -/
def State.takePresence (s : State) (p : PortId) : State :=
  let x := s.port p
  let s1 := s.setPort p x.flipPresence
  if x.looksAtPresence then
    if x.present then s1.losePresence p else s1.gainPresence p
  else s1

/-- A settle is due to end (R115). -/
def Port.settleDue (x : Port) : Bool :=
  match x.state with
  | .settling count => decide (x.settings.settleTime.toNat ≤ count)
  | _ => false

/-- A re-check of a STUCK port is due (R119). -/
def Port.recheckDue (x : Port) : Bool :=
  match x.state with
  | .stuck count => decide (Config.recheckTicks ≤ count)
  | _ => false

/-- A re-check: IDLE, a recovery of origin STUCK, or STUCK for another 1024 increments (R119). -/
def State.recheck (s : State) (p : PortId) : State :=
  let l := s.linesOf p
  if bothHigh l then s.enterIdle p true
  else if l.scl then s.beginRecovery p .stuck
  else s.setPortState p (.stuck 0)

/-- A tracker timeout is due (R128). -/
def Port.trackerDue (x : Port) : Bool :=
  match x.tracker with
  | some (.busy n) => decide (Config.trackerTicks ≤ n)
  | some .free => false
  | none => false

/-- The end of a POLL gap is due (R133). -/
def State.pollGapDue (s : State) (r : Run) : Bool :=
  r.phase == .pollGap && decide (s.waitTicks r ≤ r.pauseCount)

/-- A POLL gap ends and the next attempt begins (R133). -/
def State.endPollGap (s : State) (p : PortId) (r : Run) : State :=
  s.setRun p { r with phase := .start, attempts := r.attempts + 1 }

/-- The end of a PAUSE HOLD is due (R137). -/
def State.pauseHoldDue (s : State) (r : Run) : Bool :=
  r.phase == .pauseHold && decide (s.waitTicks r ≤ r.pauseCount)

/-- The end of a PAUSE FREE is due (R138). -/
def State.pauseFreeDue (s : State) (r : Run) : Bool :=
  r.phase == .pauseFree && decide (s.waitTicks r ≤ r.pauseCount)

/-! ## Dispatch (R92) -/

/-- Whether the dispatcher may take the job in a slot: READY, with no deadline or one not below the
time (R92). -/
def State.eligible (s : State) (slot : Nat) : Bool :=
  match s.job? slot with
  | some j => j.state == .ready && !(j.deadline.any (fun d => decide (d.toNat < s.time.toNat)))
  | none => false

/-- The dispatch of a job: off the list, ACTIVE at step 0, the port RUNNING (R16, R92, R130). -/
def State.dispatchJob (s : State) (p : PortId) (slot : Nat) : State :=
  ((s.leaveReady p slot).modifyJob slot (fun j =>
    { j with state := .active, run := { j.run with curStep := 0, curByte := 0 } })).setRun p
    (Run.begin slot)

/-- A dispatch: an IDLE port takes the first eligible job of its list (R92). That it does so with no cause of
R93 outstanding too, which tells where a backward SET_TIME or the wrap has made a job eligible that the
last dispatch passed over, is the model's choice (log 33). -/
def State.dispatchPort (s : State) (p : PortId) : State :=
  match (s.port p).state, (s.port p).ready.find? s.eligible with
  | .idle, some slot => s.dispatchJob p slot
  | _, _ => s

end Sys2Proof.Machine
end

