-- ==== Sys2Proof/Machine/TickOps.lean ====
section
/-! DEFINITION. What one tick increment brings about: the time base's evaluation of jobs (R56 to R65),
the event unit's samples, edges, triggers and notices (R70 to R77), the counts of every block (R53),
and the order in which what the sender leaves out is carried out (log 3). -/

namespace Sys2Proof.Machine

/-! ## The time base's evaluation (R56) -/

/-- The expiry test: PENDING or READY with a deadline below the time (R63). -/
def Job.expires (j : Job) (now : Time) : Bool :=
  (j.state == .pending || j.state == .ready) && j.deadline.any (fun d => decide (d.toNat < now.toNat))

/-- The AT test: PENDING with its AT time reached (R57). -/
def Job.atDue (j : Job) (now : Time) : Option Time :=
  match j.trigger with
  | .atTime t => if j.state == .pending && decide (t.toNat ≤ now.toNat) then some t else none
  | _ => none

/-- The EVERY test: PENDING, READY or ACTIVE with the time at a match (R59, R60). -/
def Job.everyDue (j : Job) (now : Time) : Bool :=
  match j.trigger with
  | .every period phase _ =>
    (j.state == .pending || j.state == .ready || j.state == .active)
      && now.toNat % period.toNat == phase.toNat
  | _ => false

/-- Whether a job waits on time and is evaluated at an increment (R56). -/
def Job.waitsOnTime (j : Job) : Bool :=
  match j.trigger with
  | .every _ _ _ => j.state != .done
  | .atTime _ => j.state == .pending || (j.state == .ready && j.deadline.isSome)
  | _ => (j.state == .pending || j.state == .ready) && j.deadline.isSome

/-- LATE: triggered more than one tick after the AT time (R57). -/
def atLate (now t : Time) : Bool := decide (1 < now.toNat - t.toNat)

/-- An AT trigger (R57). -/
def State.fireAt (s : State) (slot : Nat) (t : Time) : State :=
  s.triggerJob slot s.time (atLate s.time t)

/-- A match is missed (R61). -/
def State.missRun (s : State) (slot : Nat) : State :=
  s.modifyJob slot (fun j => { j with missed := min (j.missed + 1) 255 })

/-- An EVERY match: a PENDING job with a grantable run reservation is triggered, otherwise the match is
missed (R60). -/
def State.matchEvery (s : State) (slot : Nat) : State :=
  match s.job? slot with
  | some j =>
    if j.state == .pending && decide (1 ≤ s.reports.room) then
      (s.grantRun slot).triggerJob slot s.time false
    else s.missRun slot
  | none => s

/-- What an increment's evaluation does to a job. -/
inductive Verdict where
  | stands
  | expires
  | fires (time : Time)
  | hits
deriving DecidableEq, Repr

/-- The expiry test first, then the trigger test (R56). -/
def Job.verdict (j : Job) (now : Time) : Verdict :=
  if j.expires now then .expires
  else match j.atDue now with
    | some t => .fires t
    | none => if j.everyDue now then .hits else .stands

/-- The verdict on the job in a slot. -/
def State.verdict (s : State) (slot : Nat) : Verdict :=
  match s.job? slot with
  | some j => j.verdict s.time
  | none => .stands

/-- The evaluation of one job (R56). -/
def State.evalJob (s : State) (slot : Nat) : State :=
  match s.verdict slot with
  | .stands => s
  | .expires => s.endWithoutRun slot .expired
  | .fires t => s.fireAt slot t
  | .hits => s.matchEvery slot

/-- The evaluation of jobs in order. -/
def evalJobs : List Nat → State → State
  | [], s => s
  | slot :: rest, s => evalJobs rest (s.evalJob slot)

/-- Sets what the time base has left to evaluate. -/
def State.setEvals (s : State) (l : List Nat) : State :=
  s.setTick { s.tick with evals := l }

/-- The rest of the time base's evaluation (R56). -/
def State.finishTimeBase (s : State) : State :=
  if s.tick.evals.isEmpty then s else (evalJobs s.tick.evals s).setEvals []

/-- The slots yet to be evaluated, from the first on which the evaluation has an effect. -/
def State.nextDue (s : State) : List Nat → List Nat
  | [] => []
  | slot :: rest => if s.verdict slot == .stands then s.nextDue rest else slot :: rest

/-! ## The event unit (R70 to R77, R83) -/

/-- Whether a line's pin belongs to the event unit (R66). -/
def State.available (s : State) (n : Nat) : Bool :=
  decide (n < 6) || s.portB.settings.mode == .off

/-- The level last read on a line's pin; EV6 and EV7 are PB_SCL and PB_SDA (R66). -/
def Pins.level (x : Pins) (n : Nat) : Bool :=
  if n < 6 then x.ev.getLsbD n else if n = 6 then x.b.scl else x.b.sda

/-- The settled level a sample shows (R70). -/
def levelOf (high : Bool) : SettledLevel := if high then .high else .low

/-- One sample of a line at time `now` (R70). -/
def Sampler.sample (m : Sampler) (high : Bool) (now : Time) : Sampler :=
  if m.settled == .unknown then { m with settled := levelOf high, runCount := 0 }
  else if m.settled == levelOf high then { m with runCount := 0 }
  else if m.runCount = 0 then { m with runCount := 1, runStart := now }
  else { m with runCount := m.runCount + 1 }

/-- The qualification test: a run of at least filter + 1 samples (R71). -/
def Line.qualifies (l : Line) : Bool :=
  decide (0 < l.sampler.runCount) && decide (l.config.filter + 1 ≤ l.sampler.runCount)

/-- One line's sample, which belongs to time `now`, and qualification test; a line that qualifies has an
edge to be detected (R70, R71). -/
def State.sampleLine (s : State) (now : Time) (n : Nat) : State :=
  if s.available n then
    let l := { s.line n with sampler := (s.line n).sampler.sample (s.pins.level n) now }
    let s1 := s.setLine n l
    if l.qualifies then s1.setTick { s1.tick with edges := s1.tick.edges ++ [n] } else s1
  else s

/-- The samples of the lines in order (R75). -/
def sampleLines (now : Time) : List Nat → State → State
  | [], s => s
  | n :: rest, s => sampleLines now rest (s.sampleLine now n)

/-- The polarity of a line's edge: RISING when the settled level was LOW (R71). -/
def Sampler.polarity (m : Sampler) : Polarity :=
  if m.settled == .low then .rising else .falling

/-- The sampler after its edge is detected (R71). -/
def Sampler.detected (m : Sampler) : Sampler :=
  { m with settled := if m.settled == .low then .high else .low, runCount := 0 }

/-- Whether an edge setting takes an edge of a polarity (R71). -/
def EdgeSetting.takes (e : EdgeSetting) (p : Polarity) : Bool :=
  match e, p with
  | .both, _ => true
  | .rising, .rising => true
  | .falling, .falling => true
  | _, _ => false

/-- The capture record after a taken edge (R74). -/
def Capture.take (c : Capture) (mode : CaptureMode) (p : Polarity) (t : Time) : Capture :=
  let keep := mode == .first && c.held
  { held := true
    time := if keep then c.time else t
    polarity := if keep then c.polarity else p
    count := min (c.count + 1) 255 }

/-- Whether a job is PENDING with an EVENT trigger on a line (R76). -/
def Job.waitsOnLine (j : Job) (n : Nat) : Bool :=
  j.state == .pending &&
    match j.trigger with
    | .event line _ => line == n
    | _ => false

/-- A taken edge on line `n` counts for the job in a slot; at 0 the job is to be triggered with the
edge time, in admission order (R75, R76). -/
def State.countEdge (s : State) (n : Nat) (t : Time) (slot : Nat) : State :=
  match s.job? slot with
  | some j =>
    if j.waitsOnLine n then
      let s1 := s.setJob slot { j with countdown := j.countdown - 1 }
      if j.countdown ≤ 1 then
        s1.setTick { s1.tick with
          triggers := insertOldest (fun x => s1.age x.1) (slot, t) s1.tick.triggers }
      else s1
    else s
  | none => s

/-- A taken edge counts for the jobs in the slots given. -/
def countEdges (n : Nat) (t : Time) : List Nat → State → State
  | [], s => s
  | slot :: rest, s => countEdges n t rest (s.countEdge n t slot)

/-- The edge on a line is detected: settled level, and where the edge is taken capture record,
countdowns, and the line's place among those to ask for a notice (R71, R74 to R76, R83). -/
def State.detectEdge (s : State) (n : Nat) : State :=
  let l := s.line n
  let pol := l.sampler.polarity
  let t := l.sampler.runStart
  let l1 := { l with sampler := l.sampler.detected }
  if l.config.edge.takes pol then
    let s1 := s.setLine n { l1 with capture := l.capture.take l.config.mode pol t }
    let s2 := countEdges n t s1.liveSlots s1
    s2.setTick { s2.tick with asks := s2.tick.asks ++ [n] }
  else s.setLine n l1

/-- Edges detected in line order. -/
def detectEdges : List Nat → State → State
  | [], s => s
  | n :: rest, s => detectEdges rest (s.detectEdge n)

/-- Whether a job has an EVENT trigger (record table of chapter 1). -/
def Job.onEvent (j : Job) : Bool :=
  match j.trigger with
  | .event _ _ => true
  | _ => false

/-- An EVENT job's trigger with its edge time (R77). -/
def State.fireEvent (s : State) (x : Nat × Time) : State :=
  if (s.job? x.1).any Job.onEvent then s.triggerJob x.1 x.2 false else s

/-- EVENT triggers in admission order. -/
def fireEvents : List (Nat × Time) → State → State
  | [], s => s
  | x :: rest, s => fireEvents rest (s.fireEvent x)

/-- Notice requests in line order (R75, R83). -/
def askLines : List Nat → State → State
  | [], s => s
  | n :: rest, s => askLines rest (s.askNotice (.line n))

/-- The event unit's act ends with the notice requests, once no edge and no trigger is left (R75). -/
def State.closeEvents (s : State) : State :=
  if s.tick.edges.isEmpty && s.tick.triggers.isEmpty then
    let s1 := askLines s.tick.asks s
    s1.setTick { s1.tick with asks := [], edging := false }
  else s

/-- The rest of the event unit's act at this increment, in the order of R75. -/
def State.finishEventUnit (s : State) : State :=
  let s1 := (detectEdges s.tick.edges s)
  let s2 := s1.setTick { s1.tick with edges := [] }
  let s3 := fireEvents s2.tick.triggers s2
  (s3.setTick { s3.tick with triggers := [] }).closeEvents

/-! ## What precedes a command (R56, R75; log 3) -/

/-- An act of the event unit that has begun is finished before anything else. -/
def State.finishEventIfBegun (s : State) : State :=
  if s.tick.edging then s.finishEventUnit else s

/-- Before any event but the time base's own and the event unit's: the whole evaluation of the present
increment has been taken, which is one event with the advance (R56), and an act of the event unit that
has begun (R75). -/
def State.beforeEvent (s : State) : State := s.finishEventIfBegun.finishTimeBase

/-- Before a request that reads or sets what the samples of the present increment are judged by: the
event unit's act of that increment, whose samples have been taken (R72, R75). -/
def State.beforeLineEvent (s : State) : State := s.beforeEvent.finishEventUnit

/-! ## The host link's counts (R164, R168, R169) -/

/-- The hold limit is reached (R169). -/
def Link.holdDue (l : Link) : Bool :=
  match l.slot with
  | .held _ _ count => decide (l.holdLimit * Config.holdUnit ≤ count)
  | .empty => false
  | .waitingRoom _ => false

/-- The tag, admission number and time of admission of a job (section 10.5); a held job is a NOW job,
so its trigger time is its time of admission (R4, log 18). -/
def Job.admissionBytes (j : Job) (t : Time) : List Byte :=
  tagBytes j.tag ++ bytesBE 4 j.admission.toNat ++ timeBytes t

/-- The hold limit elapses: PENDING_NOTIFY, and the job's reply is no longer held (R13, R169). -/
def State.elapseHold (s : State) : State :=
  match s.findSlot s.link.slot.tag with
  | some slot =>
    match s.job? slot with
    | some j =>
      (s.releaseHeld (Status.pendingNotify.code :: j.admissionBytes j.run.triggerTime)).modifyJob slot
        (fun j => { j with replyHeld := false })
    | none => s
  | none => s

/-- The gap count has reached 128 in a frame in progress (R164). -/
def Link.gapDue (l : Link) : Bool := l.parser != .hunt && decide (Config.gapTicks ≤ l.gap)

/-- The frame in progress is discarded (R164). -/
def Link.dropFrame (l : Link) : Link := { l with parser := .hunt, gap := 0 }

/-- The pulse count has reached 64 (R159). -/
def ReportQueue.pulseDue (q : ReportQueue) : Bool :=
  q.pulse.any (fun n => decide (Config.pulseTicks ≤ n))

/-- ATTN is released at the end of the pulse (R159). -/
def ReportQueue.endPulse (q : ReportQueue) : ReportQueue := { q with pulse := none }

/-! ## What the sender left out of an increment is carried out (log 3) -/

/-- A presence change that is due. -/
def State.forcePresence (s : State) (p : PortId) : State :=
  if (s.port p).presenceDue then s.takePresence p else s

/-- A stretch timeout that is due. -/
def State.forceStretch (s : State) (p : PortId) : State :=
  if s.stretchDue p then s.stretchTimeout p else s

/-- Before an event on a port's wires: a stretch timeout that the last increment brought is taken, since
the port has let go of the wires there (R125, R141). -/
def State.beforeWire (s : State) (p : PortId) : State := s.beforeEvent.forceStretch p

/-- The end of a PAUSE or POLL gap that is due. -/
def State.forceWait (s : State) (p : PortId) : State :=
  match s.run? p with
  | some r =>
    if s.pollGapDue r then s.endPollGap p r
    else if s.pauseHoldDue r || s.pauseFreeDue r then s.nextStep p r
    else s
  | none => s

/-- The end of a settle or a re-check that is due. -/
def State.forceCheck (s : State) (p : PortId) : State :=
  if (s.port p).settleDue then s.endSettle p true
  else if (s.port p).recheckDue then s.recheck p
  else s

/-- A tracker timeout that is due. -/
def State.forceTracker (s : State) (p : PortId) : State :=
  if (s.port p).trackerDue then s.trackFree p else s

/-- Every act of a port that is due, in the order presence, stretch timeout, end of a wait, settle or
re-check, tracker. The spec orders these acts nowhere: this order, and that all are taken together, is
the model's choice wherever this operation carries them out, before the time base's event as well as for
what the sender left over (log 3). -/
def State.forcePort (s : State) (p : PortId) : State :=
  ((((s.forcePresence p).forceStretch p).forceWait p).forceCheck p).forceTracker p

/-- The acts of the report queue and the host link that are due, in the order pulse, hold limit, gap:
the model's choice, as for a port (log 3). -/
def State.forceLink (s : State) : State :=
  let s1 := if s.reports.pulseDue then s.setReports s.reports.endPulse else s
  let s2 := if s1.link.holdDue then s1.elapseHold else s1
  if s2.link.gapDue then s2.setLink s2.link.dropFrame else s2

/-- One block's act at an increment. -/
def State.takeAct (s : State) : TickAct → State
  | .eventUnit => s.finishEventUnit
  | .port p => s.forcePort p
  | .dispatch p => s.dispatchPort p
  | .link => s.forceLink

/-- One block's act at an increment where it comes before the time base's event. What the increment
brings about carries the increment's reading (R52, R112, R114, R141), and is judged by the time before
it; a dispatch reads the time before it (R64; log 4). -/
def State.takeEarly (s : State) : TickAct → State
  | .dispatch p => s.dispatchPort p
  | act =>
    let s1 := ({ s with time := s.time + 1, tick := { s.tick with ahead := true } } : State).takeAct act
    { s1 with time := s.time, tick := { s1.tick with ahead := false } }

/-- Everything the present increment has left to do, before the next one: the time base, the event
unit, port A, port B, the report queue and the host link. -/
def State.finishTick (s : State) : State :=
  [.eventUnit, .port .a, .port .b, .link].foldl State.takeAct s.beforeEvent

/-! ## The advance (R51, R53) -/

/-- The debouncer takes a sample (R112): a change that moves the port's state waits for the port's own
act, any other is taken at once. -/
def Port.debounce (x : Port) (prs : Bool) : Port :=
  if (!prs) == x.present then { x with presRun := 0 }
  else
    let y := { x with presRun := min (x.presRun + 1) Config.presenceSamples }
    if y.presenceDue && !y.looksAtPresence then y.flipPresence else y

/-- The tracker counts an increment with both lines high (R128). -/
def Tracker.count (t : Tracker) (l : Levels) : Tracker :=
  match t with
  | .busy n => if bothHigh l then .busy (n + 1) else .busy 0
  | .free => .free

/-- A run counts an increment of its PAUSE or POLL gap (R133, R137, R138). -/
def Run.countWait (r : Run) : Run :=
  match r.phase with
  | .pollGap => { r with pauseCount := r.pauseCount + 1 }
  | .pauseHold => { r with pauseCount := r.pauseCount + 1 }
  | .pauseFree => { r with pauseCount := r.pauseCount + 1 }
  | _ => r

/-- A port state counts an increment: settle, re-check, PAUSE or POLL gap. -/
def PortState.count : PortState → PortState
  | .settling n => .settling (n + 1)
  | .stuck n => .stuck (n + 1)
  | .running r => .running r.countWait
  | x => x

/-- The stretch count at an increment (R125). -/
def SclWait.count (w : SclWait) (n : Nat) : Nat :=
  match w with
  | .none => 0
  | .begun => 1
  | .goesOn => n + 1

/-- Whether a port is where it may wait for SCL to rise (R117, R125). -/
def PortState.waitsForScl : PortState → Bool
  | .running r => r.canStretch
  | .recovering _ _ => true
  | _ => false

/-- What a port does with SDA where it waits for SCL: in a byte what the bit it stands in asks, which was
set before SCL was released, and else what it drives there (R124, R126). -/
def State.waitPull (s : State) (p : PortId) : Pull :=
  match s.run? p with
  | some r => if r.phase.inByte then s.bitPull r else (s.port p).drive.sda
  | none => (s.port p).drive.sda

/-- A port's counts at an increment (R53); a port found waiting for SCL has released it (R125), with `sda`
for SDA. -/
def Port.tickCount (x : Port) (m : PortSample) (sda : Pull) : Port :=
  let y := x.debounce m.prs
  let n := if y.state.waitsForScl then SclWait.count m.wait y.stretch else 0
  { y with
    state := y.state.count
    drive := if n = 0 then y.drive else { scl := .released, sda := sda }
    stretch := n
    tracker := y.tracker.map (fun t => t.count m.lines) }

/-- The held-reply slot counts an increment (R168). -/
def HeldSlot.count : HeldSlot → HeldSlot
  | .held tag lseq n => .held tag lseq (n + 1)
  | x => x

/-- The host link's counts at an increment (R164, R168). -/
def Link.tickCount (l : Link) : Link :=
  { l with gap := if l.parser == .hunt then l.gap else l.gap + 1, slot := l.slot.count }

/-- The slots the time base has to evaluate at an increment, in admission order (R56). -/
def State.slotsToEvaluate (s : State) : List Nat :=
  s.admissionOrder (s.liveSlots.filter (fun i => (s.job? i).any Job.waitsOnTime))

/-- The pins as an increment samples them. -/
def Pins.ofSamples (m : Samples) : Pins where
  ev   := m.ev
  prsA := m.a.prs
  prsB := m.b.prs
  a    := m.a.lines
  b    := m.b.lines

/-- The counts of every block and the samples of an increment, which belong to the time it brings (R53,
R70, R112). They come before every act of the increment. R56 and R75 let a block count before or after
the acts of the others: that an increment is never counted into an ATTN pulse that an act of the same
increment starts or starts again (R159) is the model's choice (log 32). -/
def State.countAndSample (s : State) (m : Samples) : State :=
  let s1 : State := { s with
    pins := Pins.ofSamples m
    portA := s.portA.tickCount m.a (s.waitPull .a)
    portB := s.portB.tickCount m.b (s.waitPull .b)
    reports := { s.reports with pulse := s.reports.pulse.map (fun n => n + 1) }
    link := s.link.tickCount }
  sampleLines (s.time + 1) (List.range Config.eventLines) (s1.setTick TickWork.none)

/-- The time base's advance, with the jobs it is to evaluate (R51, R56). -/
def State.raiseTime (s : State) : State :=
  let s1 : State := { s with time := s.time + 1 }
  s1.setEvals s1.slotsToEvaluate

/-- An increment: counts and samples, the acts that come before the time base's event, and that event
(R51, R56). No other command comes between an early act and the time base's event: a request, a START, a
STOP, an ARBITRATION_LOSS or a RUN_START, say, precedes every early act or follows the evaluation. R56
leaves the order open; that these orders cannot be queued is the model's choice (log 3). -/
def State.advance (s : State) (m : Samples) (early : List TickAct) : State :=
  (early.foldl State.takeEarly (s.countAndSample m)).raiseTime

end Sys2Proof.Machine
end

