-- ==== Sys2Proof/Machine/HostLink.lean ====
section
/-! DEFINITION. The host link (chapter 9): resets, the parser, taking a request, PING, GET_SUMMARY,
SET_LINK, RESET, the transmit queue and the hold limit. -/

namespace Sys2Proof.Machine

/-! ## Taking a request (R166) -/

/-- A request in hand can be taken: fewer than four replies in the transmit queue, and no content
waiting for room (R166). -/
def Link.canTake (l : Link) : Bool :=
  decide (l.tx.length < Config.txSlots) &&
    match l.slot with
    | .waitingRoom _ => false
    | .empty => true
    | .held _ _ _ => true

/-- The request in hand, where it is of kind `k` and can be taken. -/
def State.requestOf (s : State) (k : Kind) : Option Request :=
  match s.link.inHand with
  | some r => if r.kind == k.code && s.link.canTake then some r else none
  | none => none

/-- The reply to a request: its KIND + 80h and its LSEQ (R166). -/
def Request.reply (r : Request) (payload : List Byte) : Reply where
  kind    := replyKind r.kind
  lseq    := r.lseq
  payload := payload

/-- Answers a request. -/
def State.answer (s : State) (r : Request) (payload : List Byte) : State :=
  s.pushReply (r.reply payload)

/-- The request in hand is taken and leaves the hand (R166). -/
def State.emptyHand (s : State) : State := s.setLink { s.link with inHand := none }

/-- Takes a request of kind `k`: size check, then LINK_BUSY where a reply is held and the request is
not one carried out meanwhile (`open_`), then `body` (R166). -/
def State.serve (s : State) (k : Kind) (open_ : Request → Bool)
    (body : Request → State → State) : State :=
  match s.requestOf k with
  | none => s
  | some r =>
    if !k.sizeOk r.payload.length then s.emptyHand.answer r [Status.badLength.code]
    else if s.link.slot.isHeld && !open_ r then s.emptyHand.answer r [Status.linkBusy.code]
    else body r s.emptyHand

/-- A request carried out while a reply is held, whatever its content (R166). -/
def openAlways : Request → Bool := fun _ => true

/-- A request answered LINK_BUSY while a reply is held (R166). -/
def openNever : Request → Bool := fun _ => false

/-- A request whose reply follows its effect: `f` gives the new state and the reply's payload. -/
def replying (f : List Byte → State → State × List Byte) (r : Request) (s : State) : State :=
  (f r.payload s).1.answer r (f r.payload s).2

/-! ## Resets (R27, R173, R174) -/

/-- PIN_RESET: every block takes its pin-reset values, and the straps are sampled (R27, R174). The
queue of commands and the levels on the pins are outside the part. -/
def execPinReset (rate : BitVec 2) (s : State) : Host.Outcome State Fault Refusal :=
  .next { State.reset with pending := s.pending, pins := s.pins, link := Link.reset rate }

/-- The reset of a RESET request takes effect as its OK reply `r` leaves the transmit queue: all blocks
but the time base take their reset values; the bit rate stays (R173). -/
def State.resetBlocks (s : State) (r : Reply) : State :=
  { State.reset with
    pending := s.pending
    time := s.time
    timeSet := s.timeSet
    pins := s.pins
    link := { Link.reset s.link.rate with sent := r.levels } }

/-- The OK reply of RESET is the one reply left in the transmit queue (R173). -/
def Link.resetReply (l : Link) : Option Reply :=
  if l.resetPending then
    match l.tx with
    | [r] => some r
    | _ => none
  else none

/-- RESET_TAKES_EFFECT (R173). -/
def execResetTakesEffect (s : State) : Host.Outcome State Fault Refusal :=
  let s1 := s.beforeEvent
  .next (match s1.link.resetReply with
    | some r => s1.resetBlocks r
    | none => s1)

/-- The head reply leaves the transmit queue; room goes first to content waiting in the held-reply
slot, unless a RESET is pending (R167, R168). -/
def State.sendHead (s : State) (r : Reply) (rest : List Reply) : State :=
  let l := { s.link with tx := rest, sent := r.levels }
  match l.slot with
  | .waitingRoom held =>
    if l.resetPending then s.setLink l
    else s.setLink { l with tx := rest ++ [held], slot := .empty }
  | .empty => s.setLink l
  | .held _ _ _ => s.setLink l

/-- REPLY_SENT (R167). The reply of a RESET leaving the queue is its reset taking effect (R173,
log 17). -/
def execReplySent (s : State) : Host.Outcome State Fault Refusal :=
  let s1 := s.beforeEvent
  .next (match s1.link.resetReply with
    | some r => s1.resetBlocks r
    | none =>
      match s1.link.tx with
      | [] => s1
      | r :: rest => s1.sendHead r rest)

/-! ## The parser (R164, R165) -/

/-- A complete frame becomes the request in hand; it is discarded where there is one already or a
RESET is in progress (R165, R173). -/
def Link.complete (l : Link) (bytes : List Byte) : Link :=
  let l1 := l.dropFrame
  match bytes with
  | kind :: lseq :: payload =>
    if l.inHand.isNone && !l.resetPending then
      { l1 with inHand := some { kind := kind, lseq := lseq, payload := payload } }
    else l1
  | _ => l1

/-- The parser takes a byte in a frame in progress, without a framing error (R164). -/
def Link.frameByte (l : Link) (b : Byte) : Link :=
  match l.parser with
  | .hunt => if b == 0xA5 then { l with parser := .length none, gap := 0 } else l
  | .length none => { l with parser := .length (some b), gap := 0 }
  | .length (some hi) =>
    let len := natBE [hi, b]
    if 2 ≤ len ∧ len ≤ 322 then { l with parser := .body len [], gap := 0 } else l.dropFrame
  | .body len bytes =>
    if bytes.length + 1 < len then { l with parser := .body len (bytes ++ [b]), gap := 0 }
    else { l with parser := .check len (bytes ++ [b]) none, gap := 0 }
  | .check len bytes none => { l with parser := .check len bytes (some b), gap := 0 }
  | .check _ bytes (some hi) =>
    if natBE [hi, b] == (chkOf bytes).toNat then l.complete bytes else l.dropFrame

/-- The parser takes a byte; one with a framing error is discarded in HUNT and ends a frame in progress
(R162, R164). -/
def Link.takeByte (l : Link) (b : Byte) (framing : Bool) : Link :=
  if framing then (if l.parser == .hunt then l else l.dropFrame) else l.frameByte b

/-- A frame in progress whose gap count has reached 128 is discarded (R164). -/
def Link.closeGap (l : Link) : Link := if l.gapDue then l.dropFrame else l

/-- BYTE_RECEIVED (R162, R164): a stop bit that reads low is a framing error. A gap that the last
increment brought to 128 has ended the frame before. -/
def execByteReceived (data : List Bool) (stop : Bool) (s : State) :
    Host.Outcome State Fault Refusal :=
  let s1 := s.beforeEvent
  .next (if data.length = 8 then s1.setLink (s1.link.closeGap.takeByte (byteOfBits data) !stop)
    else s1)

/-- GAP_TIMEOUT (R164). -/
def execGapTimeout (s : State) : Host.Outcome State Fault Refusal :=
  let s1 := s.beforeEvent
  .next (if s1.link.gapDue then s1.setLink s1.link.dropFrame else s1)

/-! ## Link requests -/

/-- The KIND of an UNKNOWN_KIND reply: FFh for a request KIND of 80h or above (R166, R176). -/
def unknownReplyKind (k : Byte) : Byte := if 0x80 ≤ k.toNat then 0xFF else replyKind k

/-- UNKNOWN_KIND: the request in hand is of no known kind (R166). -/
def execUnknownKind (s : State) : Host.Outcome State Fault Refusal :=
  let s1 := s.beforeEvent
  .next (match s1.link.inHand with
    | some r =>
      if !knownKind r.kind && s1.link.canTake then
        s1.emptyHand.pushReply
          { kind := unknownReplyKind r.kind, lseq := r.lseq, payload := [Status.unknownKind.code] }
      else s1
    | none => s1)

/-- PING's OK payload (R171). -/
def State.pingPayload (s : State) : List Byte :=
  [Status.ok.code, 0x4E, 0x4B, 0x02, 0x84, 0x01, b1 Config.jobSlots, b1 Config.poolBlocks,
   b1 Config.reportSlots, b1 Config.eventLines, b1 Config.busPorts, b1 s.link.rate.toNat]
    ++ tagBytes s.link.slot.tag

/-- PING (R171). -/
def execPing (s : State) : Host.Outcome State Fault Refusal :=
  .next (s.beforeEvent.serve .ping openAlways (replying (fun _ s => (s, s.pingPayload))))

/-- GET_SUMMARY's OK payload (R172). -/
def State.summaryPayload (s : State) : List Byte :=
  [Status.ok.code, b1 s.freeSlots, b1 s.freeBlocks.length, b1 s.reports.queued.length,
   b1 s.reports.reserved, b1 s.reports.owed.length, s.portA.state.shown.code,
   s.portB.state.shown.code, boolCode s.link.slot.isHeld]

/-- GET_SUMMARY (R172). -/
def execGetSummary (s : State) : Host.Outcome State Fault Refusal :=
  .next (s.beforeEvent.serve .getSummary openAlways (replying (fun _ s => (s, s.summaryPayload))))

/-- The ATTN settings a SET_LINK leaves: a pulse in progress runs on only where the mode stays PULSE
(R160). -/
def ReportQueue.setAttn (q : ReportQueue) (mode : AttnMode) (e : Enables) : ReportQueue :=
  { q with
    attnMode := mode
    enables := e
    pulse := if q.attnMode == .pulse && mode == .pulse then q.pulse else none }

/-- SET_LINK's checks and effect (R160, R170). -/
def setLinkEffect (p : List Byte) (s : State) : State × List Byte :=
  if byteAt p 0 == 0 then (s, badField 0)
  else match AttnMode.ofCode (byteAt p 1) with
    | none => (s, badField 1)
    | some mode =>
      if !bitsWithin enableFlags (byteAt p 2) then (s, badField 2)
      else
        ((s.setReports (s.reports.setAttn mode (enablesOf (byteAt p 2)))).setLink
            { s.link with holdLimit := (byteAt p 0).toNat }, [Status.ok.code])

/-- SET_LINK (R170). -/
def execSetLink (s : State) : Host.Outcome State Fault Refusal :=
  .next (s.beforeEvent.serve .setLink openNever (replying setLinkEffect))

/-- RESET: its OK reply is queued, and the link takes no request until the reset takes effect
(R173). -/
def resetEffect (_ : List Byte) (s : State) : State × List Byte :=
  (s.setLink { s.link with resetPending := true }, [Status.ok.code])

/-- RESET (R173). -/
def execReset (s : State) : Host.Outcome State Fault Refusal :=
  .next (s.beforeEvent.serve .reset openAlways (replying resetEffect))

/-- HOLD_LIMIT (R169). -/
def execHoldLimit (s : State) : Host.Outcome State Fault Refusal :=
  let s1 := s.beforeEvent
  .next (if s1.link.holdDue then s1.elapseHold else s1)

end Sys2Proof.Machine
end

