-- ==== Sys2Proof/Machine/EventUnit.lean ====
section
/-! DEFINITION. The event unit (chapter 4): CONFIG_LINE, GET_CAPTURE, CLEAR_CAPTURE, edges and EVENT
triggers. -/

namespace Sys2Proof.Machine

/-- The settings a CONFIG_LINE payload gives, or the payload of its refusal: checks 1 to 5 (R68). -/
def lineConfigOf (p : List Byte) : Except (List Byte) (Nat × LineConfig) :=
  if Config.eventLines ≤ (byteAt p 0).toNat then .error (badField 0)
  else match EdgeSetting.ofCode (byteAt p 1) with
    | none => .error (badField 1)
    | some edge =>
      match CaptureMode.ofCode (byteAt p 2) with
      | none => .error (badField 2)
      | some mode =>
        if 15 < (byteAt p 3).toNat then .error (badField 3)
        else match onOffOfCode (byteAt p 4) with
          | none => .error (badField 4)
          | some en =>
            .ok ((byteAt p 0).toNat,
              { edge := edge, mode := mode, filter := (byteAt p 3).toNat, noticeEn := en })

/-- CONFIG_LINE's checks and effect; check 6 keeps EV6 and EV7 from watching port B's pins (R68,
R69). -/
def configLineEffect (p : List Byte) (s : State) : State × List Byte :=
  match lineConfigOf p with
  | .error e => (s, e)
  | .ok (n, c) =>
    if decide (6 ≤ n) && c.edge != .off && s.portB.settings.mode != .off then
      (s, [Status.pinInUse.code])
    else (s.setLine n { s.line n with config := c }, [Status.ok.code])

/-- CONFIG_LINE (R68). -/
def execConfigLine (s : State) : Host.Outcome State Fault Refusal :=
  .next (s.beforeLineEvent.serve .configLine openNever (replying configLineEffect))

/-- The 17-byte entry of a line (R82, section 10.5). -/
def State.captureEntry (s : State) (n : Nat) : List Byte :=
  let l := s.line n
  [b1 n, l.config.edge.code, l.config.mode.code, b1 l.config.filter, boolCode l.config.noticeEn,
   boolCode (s.available n), l.sampler.settled.code, boolCode l.capture.held,
   l.capture.polarity.code, b1 l.capture.count] ++ timeBytes l.capture.time ++ [l.notice.code]

/-- The lines of a mask, ascending (R82). -/
def maskLines (mask : Byte) : List Nat :=
  (List.range Config.eventLines).filter (fun n => mask.getLsbD n)

/-- GET_CAPTURE's reply payload (R82). -/
def State.capturePayload (s : State) (p : List Byte) : List Byte :=
  if byteAt p 0 == 0 then badField 0
  else Status.ok.code :: (maskLines (byteAt p 0)).flatMap s.captureEntry

/-- GET_CAPTURE (R82). -/
def execGetCapture (s : State) : Host.Outcome State Fault Refusal :=
  .next (s.beforeLineEvent.serve .getCapture openNever (replying (fun p s => (s, s.capturePayload p))))

/-- A line leaves the owed list without a notice (R153). -/
def ReportQueue.dropOwed (q : ReportQueue) (src : Source) : ReportQueue :=
  { q with owed := q.owed.filter (fun x => x != src) }

/-- Clears a line's capture record and drops an owed notice; a queued one stays (R80). -/
def State.clearCapture (s : State) (n : Nat) : State :=
  let l := s.line n
  let s1 := s.setLine n { l with capture := Capture.cleared }
  if l.notice == .owed then
    (s1.setReports (s1.reports.dropOwed (.line n))).setNotice (.line n) .none
  else s1

/-- CLEAR_CAPTURE's check, comparison and effect (R80). -/
def clearCaptureEffect (p : List Byte) (s : State) : State × List Byte :=
  let n := (byteAt p 0).toNat
  if Config.eventLines ≤ n then (s, badField 0)
  else if (byteAt p 1).toNat == (s.line n).capture.count then
    (s.clearCapture n, [Status.ok.code, byteAt p 0, byteAt p 1])
  else (s, [Status.stale.code, byteAt p 0, b1 (s.line n).capture.count])

/-- CLEAR_CAPTURE (R80). -/
def execClearCapture (s : State) : Host.Outcome State Fault Refusal :=
  .next (s.beforeEvent.serve .clearCapture openNever (replying clearCaptureEffect))

/-- EDGE_DETECTED (R71): the edge on the first of the lines with an edge to be detected. -/
def execEdgeDetected (line : Nat) (s : State) : Host.Outcome State Fault Refusal :=
  let s1 := s.finishTimeBase
  .next (match s1.tick.edges with
    | n :: rest =>
      if n == line then
        ((s1.setTick { s1.tick with edges := rest, edging := true }).detectEdge n).closeEvents
      else s1
    | [] => s1)

/-- EVENT_TRIGGER (R77): the first of the EVENT jobs to be triggered, once every edge of the increment
has been detected (R75). -/
def execEventTrigger (tag : Tag) (s : State) : Host.Outcome State Fault Refusal :=
  let s1 := s.finishTimeBase
  .next (match s1.tick.edges, s1.tick.triggers with
    | [], x :: rest =>
      if (s1.job? x.1).any (fun j => j.tag == tag) then
        ((s1.setTick { s1.tick with triggers := rest }).fireEvent x).closeEvents
      else s1
    | _, _ => s1)

end Sys2Proof.Machine
end

