-- ==== Sys2Proof/Machine/StepList.lean ====
section
/-! DEFINITION. Step encodings and the well-formedness of a step list (sections 2.2 and 10.4, R37 to
R40). -/

namespace Sys2Proof.Machine

/-- BAD_STEPS reasons (section 10.7). -/
inductive Reason where
  | order
  | direction
  | address
  | lengthSum
  | marks
  | range
  | count
deriving DecidableEq, Repr

/-- A reason's code. -/
def Reason.code : Reason → Byte
  | .order => 1
  | .direction => 2
  | .address => 3
  | .lengthSum => 4
  | .marks => 5
  | .range => 6
  | .count => 7

/-- A BAD_STEPS payload: status, step index, reason (R176). -/
def badSteps (index : Nat) (r : Reason) : List Byte := [Status.badSteps.code, b1 index, r.code]

/-- A step as it is encoded: kind byte, one-byte argument, two-byte argument (section 10.4). -/
structure RawStep where
  kind : Byte
  arg1 : Byte
  arg2 : Nat
deriving DecidableEq, Repr

/-- The raw step at an offset of a payload. -/
def rawStepAt (p : List Byte) (off : Nat) : RawStep where
  kind := byteAt p off
  arg1 := byteAt p (off + 1)
  arg2 := fieldAt p (off + 2) 2

/-- The `n` raw steps of a SUBMIT payload. -/
def rawSteps (p : List Byte) (n : Nat) : List RawStep :=
  (List.range n).map (fun i => rawStepAt p (Config.descriptorBytes + 4 * i))

/-- The sum of the count fields of the WRITE steps as they are encoded (R7). -/
def rawWriteSum : List RawStep → Nat
  | [] => 0
  | x :: rest => (if x.kind == 3 then x.arg2 else 0) + rawWriteSum rest

/-- Whether a target is within 08h to 77h (R38). -/
def targetOk (b : Byte) : Bool := decide (0x08 ≤ b.toNat) && decide (b.toNat ≤ 0x77)

/-- The argument test: the step, or the reason it fails (R38). -/
def RawStep.decode (x : RawStep) : Except Reason Step :=
  if x.kind == 1 then
    if !targetOk x.arg1 then .error .address
    else if x.arg2 = 0 then .ok (.address (x.arg1.truncate 7) .w)
    else if x.arg2 = 1 then .ok (.address (x.arg1.truncate 7) .r)
    else .error .range
  else if x.kind == 2 then
    if !targetOk x.arg1 then .error .address
    else if x.arg2 / 256 = 0 ∨ x.arg2 % 256 = 0 then .error .range
    else .ok (.poll (x.arg1.truncate 7) (x.arg2 / 256) (x.arg2 % 256))
  else if x.kind == 3 then
    if x.arg1 != 0 ∨ x.arg2 = 0 ∨ 192 < x.arg2 then .error .range else .ok (.write x.arg2)
  else if x.kind == 4 then
    if x.arg1 != 0 ∨ x.arg2 = 0 ∨ 256 < x.arg2 then .error .range else .ok (.read x.arg2)
  else if x.kind == 5 then
    if x.arg1 != 0 ∨ x.arg2 ≠ 0 then .error .range else .ok .stop
  else if x.kind == 6 then
    if x.arg2 = 0 then .error .range
    else if x.arg1 == 0 then .ok (.pause .hold x.arg2)
    else if x.arg1 == 1 then .ok (.pause .free x.arg2)
    else .error .range
  else if x.kind == 7 then
    if x.arg1 != 0 ∨ x.arg2 ≠ 0 then .error .range else .ok .mark
  else .error .range

/-- The transfer state of the walk (R37). -/
inductive Transfer where
  | closed
  | writeOpen
  | readOpenEmpty
  | readOpenUsed
deriving DecidableEq, Repr

/-- What the walk over a list keeps (R37). -/
structure Walk where
  transfer : Transfer
  marks    : Nat
  writeSum : Nat
  readSum  : Nat
deriving DecidableEq, Repr

/-- The walk's values at step 0 (R37). -/
def Walk.begin : Walk where
  transfer := .closed
  marks    := 0
  writeSum := 0
  readSum  := 0

/-- The place test against the transfer state, with the state it leaves (R39). -/
def Step.place (st : Step) (t : Transfer) : Except Reason Transfer :=
  match st, t with
  | .address _ _, .readOpenEmpty => .error .order
  | .address _ .w, _ => .ok .writeOpen
  | .address _ .r, _ => .ok .readOpenEmpty
  | .poll _ _ _, .readOpenEmpty => .error .order
  | .poll _ _ _, _ => .ok .writeOpen
  | .write _, .closed => .error .order
  | .write _, .writeOpen => .ok .writeOpen
  | .write _, .readOpenEmpty => .error .direction
  | .write _, .readOpenUsed => .error .direction
  | .read _, .closed => .error .order
  | .read _, .writeOpen => .error .direction
  | .read _, .readOpenEmpty => .ok .readOpenUsed
  | .read _, .readOpenUsed => .ok .readOpenUsed
  | .stop, .readOpenEmpty => .error .order
  | .stop, _ => .ok .closed
  | .pause .free _, .readOpenEmpty => .error .order
  | .pause .free _, _ => .ok .closed
  | .pause .hold _, .closed => .error .order
  | .pause .hold _, t => .ok t
  | .mark, t => .ok t

/-- Step 0 must be ADDRESS or POLL (R39). -/
def Step.opens : Step → Bool
  | .address _ _ => true
  | .poll _ _ _ => true
  | _ => false

/-- The count tests, with the walk they leave (R40). -/
def Step.tally (st : Step) (w : Walk) (t : Transfer) : Except Reason Walk :=
  match st with
  | .mark => if 3 ≤ w.marks + 1 then .error .marks
    else .ok { w with transfer := t, marks := w.marks + 1 }
  | .write n => if 192 < w.writeSum + n then .error .lengthSum
    else .ok { w with transfer := t, writeSum := w.writeSum + n }
  | .read n => if 256 < w.readSum + n then .error .lengthSum
    else .ok { w with transfer := t, readSum := w.readSum + n }
  | _ => .ok { w with transfer := t }

/-- The four tests of one step in their order (R37). -/
def RawStep.check (x : RawStep) (index : Nat) (w : Walk) : Except Reason (Step × Walk) :=
  match x.decode with
  | .error e => .error e
  | .ok st =>
    if index = 0 ∧ !st.opens then .error .order
    else match st.place w.transfer with
      | .error e => .error e
      | .ok t =>
        match st.tally w t with
        | .error e => .error e
        | .ok w' => .ok (st, w')

/-- The walk from a step on: the steps and the final walk, or the failing index and reason (R37). -/
def walkSteps : Nat → Walk → List RawStep → Except (Nat × Reason) (List Step × Walk)
  | index, w, [] =>
    if w.transfer == .readOpenEmpty then .error (index - 1, .order) else .ok ([], w)
  | index, w, x :: rest =>
    match x.check index w with
    | .error e => .error (index, e)
    | .ok (st, w') =>
      match walkSteps (index + 1) w' rest with
      | .error e => .error e
      | .ok (sts, wf) => .ok (st :: sts, wf)

/-- The step check of admission (R37): a step count above 16 fails with COUNT and index 16. -/
def checkSteps (raws : List RawStep) : Except (Nat × Reason) (List Step × Walk) :=
  if 16 < raws.length then .error (16, .count) else walkSteps 0 Walk.begin raws

end Sys2Proof.Machine
end

