-- ==== Sys2Proof/Machine/JobTable.lean ====
section
/-! DEFINITION. The job table's requests: SUBMIT, CANCEL, JOB_STATUS, FETCH, RELEASE (chapters 1, 2 and
5). -/

namespace Sys2Proof.Machine

/-! ## SUBMIT (R6 to R13) -/

/-- The descriptor and list of a SUBMIT that has passed checks 1 to 4, with its write data. -/
structure Submission where
  tag         : Tag
  port        : Option PortId
  trigger     : Trigger
  unbreakable : Bool
  holdReply   : Bool
  retries     : Nat
  deadline    : Option Time
  steps       : List Step
  writeLen    : Nat
  readTotal   : Nat
  data        : List Byte
deriving DecidableEq, Repr

/-- Check 1: the payload size against step count and write data (R7). -/
def sizeMatches (p : List Byte) : Bool :=
  let n := (byteAt p 22).toNat
  decide (Config.descriptorBytes + 4 * n ≤ p.length) &&
    p.length == Config.descriptorBytes + 4 * n + rawWriteSum (rawSteps p n)

/-- The first of the offsets from `off`, `len` of them, whose byte is not 0 (R8, R175). -/
def firstNonZero (p : List Byte) (off len : Nat) : Option Nat :=
  ((List.range len).map (fun i => off + i)).find? (fun i => byteAt p i != 0)

/-- The trigger fields: the trigger, or the offset of the first field that fails (R8, section 10.3). -/
def triggerOf (p : List Byte) : Except Nat Trigger :=
  let k := byteAt p 3
  if k == 0 then
    match firstNonZero p 4 10 with
    | some off => .error off
    | none => .ok .now
  else if k == 1 then
    match firstNonZero p 10 4 with
    | some off => .error off
    | none => .ok (.atTime (timeAt p 4))
  else if k == 2 then
    if fieldAt p 4 4 < 64 then .error 4
    else if fieldAt p 4 4 ≤ fieldAt p 8 4 then .error 8
    else .ok (.every (BitVec.ofNat 32 (fieldAt p 4 4)) (BitVec.ofNat 32 (fieldAt p 8 4))
      (BitVec.ofNat 16 (fieldAt p 12 2)))
  else if k == 3 then
    if Config.eventLines ≤ (byteAt p 4).toNat then .error 4
    else if byteAt p 5 == 0 then .error 5
    else match firstNonZero p 6 8 with
      | some off => .error off
      | none => .ok (.event (byteAt p 4).toNat (byteAt p 5).toNat)
  else .error 3

/-- A deadline; all six bytes FFh mean none (R8). -/
def deadlineOf (p : List Byte) : Option Time :=
  if timeAt p 16 == BitVec.allOnes 48 then none else some (timeAt p 16)

/-- Checks 1 to 4: the submission, or the payload of the refusal (R7, R8, R9). -/
def parseSubmit (p : List Byte) : Except (List Byte) Submission :=
  if !sizeMatches p then .error [Status.badLength.code]
  else if tagAt p == 0 then .error (badField 0)
  else match jobPortOfCode (byteAt p 2) with
  | none => .error (badField 2)
  | some port =>
    match triggerOf p with
    | .error off => .error (badField off)
    | .ok trigger =>
      if !bitsWithin descriptorFlags (byteAt p 14) then .error (badField 14)
      else if 7 < (byteAt p 15).toNat then .error (badField 15)
      else
        let n := (byteAt p 22).toNat
        match checkSteps (rawSteps p n) with
        | .error (index, reason) => .error (badSteps index reason)
        | .ok (steps, w) =>
          let hold := flagHoldReply (byteAt p 14)
          let recurring := match trigger with
            | .every _ _ _ => true
            | _ => false
          if port.isNone != steps.isEmpty then .error (badSteps 0 .count)
          else if hold && (trigger != .now || port.isNone) then .error (badField 14)
          else if recurring && decide (Config.shortBytes < w.readSum) then .error (badField 3)
          else .ok
            { tag := tagAt p
              port := port
              trigger := trigger
              unbreakable := flagUnbreakable (byteAt p 14)
              holdReply := hold
              retries := (byteAt p 15).toNat
              deadline := deadlineOf p
              steps := steps
              writeLen := w.writeSum
              readTotal := w.readSum
              data := p.drop (Config.descriptorBytes + 4 * n) }

/-- The blocks a submission needs: ⌈(write length + read total)/32⌉ (R42). -/
def Submission.blocksNeeded (x : Submission) : Nat :=
  (x.writeLen + x.readTotal + (Config.blockBytes - 1)) / Config.blockBytes

/-- Whether the submission's port is OFF (R10). -/
def State.portOffFor (s : State) (x : Submission) : Bool :=
  match x.port with
  | some p => (s.port p).settings.mode == .off
  | none => false

/-- Checks 5 to 10 against the state of the part: the status of the first that fails (R10, R11). -/
def State.admissionRefusal (s : State) (x : Submission) : Option Status :=
  if (s.findSlot x.tag).isSome then some .dupTag
  else if s.portOffFor x then some .portOff
  else if x.deadline.any (fun d => decide (d.toNat ≤ s.time.toNat)) then some .pastDeadline
  else if s.freeSlots = 0 then some .tableFull
  else if s.freeBlocks.length < x.blocksNeeded then some .noSpace
  else if s.reports.room = 0 then some .queueFull
  else none

/-- The lowest-numbered free slot (R1). -/
def State.lowestFreeSlot (s : State) : Nat := s.slots.findIdx (fun o => o.isNone)

/-- The countdown at admission: the EVENT count, 0 for other triggers (record table). -/
def Trigger.countdown : Trigger → Nat
  | .event _ count => count
  | _ => 0

/-- The record of an accepted job, before its first state (R12, record table). -/
def State.admittedJob (s : State) (x : Submission) : Job where
  tag         := x.tag
  admission   := s.counter
  port        := x.port
  trigger     := x.trigger
  deadline    := x.deadline
  retries     := x.retries
  retriesLeft := x.retries
  unbreakable := x.unbreakable
  holdReply   := x.holdReply
  replyHeld   := x.holdReply
  steps       := x.steps
  writeLen    := x.writeLen
  readTotal   := x.readTotal
  blocks      := s.freeBlocks.take x.blocksNeeded
  state       := .pending
  ending      := false
  stopping    := false
  countdown   := x.trigger.countdown
  runsDone    := 0
  missed      := 0
  standing    := true
  runRes      := false
  run         := RunRecord.cleared

/-- The job takes its slot, admission number, blocks with the write data, and standing reservation
(R12, R42, R44). -/
def State.placeJob (s : State) (x : Submission) : State :=
  let j := s.admittedJob x
  (({ s with
      counter := s.counter + 1
      pool := writeBytes j.blocks 0 x.data s.pool }).setJob s.lowestFreeSlot j).reserve

/-- Acceptance: the job's resources and its first state; a NOW job is triggered at admission, and a NOW
marker completes there (R4, R12, R17). -/
def State.accept (s : State) (x : Submission) : State :=
  let s1 := s.placeJob x
  if x.trigger == .now then s1.triggerJob s.lowestFreeSlot s.time false else s1

/-- The OK payload of SUBMIT: tag, admission number, time of admission (section 10.5). -/
def submitPayload (x : Submission) (adm : BitVec 32) (t : Time) : List Byte :=
  Status.ok.code :: tagBytes x.tag ++ bytesBE 4 adm.toNat ++ timeBytes t

/-- SUBMIT as one event: the ten checks, then acceptance, with the reply or the held-reply slot (R6,
R12, R13, R168). -/
def submitBody (r : Request) (s : State) : State :=
  match parseSubmit r.payload with
  | .error e => s.answer r e
  | .ok x =>
    match s.admissionRefusal x with
    | some st => s.answer r [st.code]
    | none =>
      let s1 := s.accept x
      if x.holdReply then s1.setLink { s1.link with slot := .held x.tag r.lseq 0 }
      else s1.answer r (submitPayload x s.counter s.time)

/-- SUBMIT (R6). -/
def execSubmit (s : State) : Host.Outcome State Fault Refusal :=
  .next (s.beforeEvent.serve .submit openNever submitBody)

/-! ## CANCEL (R96 to R103) -/

/-- The reply status of a CANCEL by the state it finds (R96). -/
def Job.cancelStatus (j : Job) : Status :=
  match j.state with
  | .pending => .cancelled
  | .ready => .cancelled
  | .active =>
    if !j.unbreakable then .stopping else if j.recurring then .ending else .tooLate
  | .done => .alreadyDone

/-- Whether a run stands before a START it has not begun to give: it waits for the bus to be free, or
the sender says the START is not yet under way (R144). -/
def State.waitsForBus (s : State) (p : PortId) (r : Run) (startUnderWay : Bool) : Bool :=
  !r.held && !(startUnderWay && (s.port p).trackerFree)

/-- What the port does at once when the stopping field of its job has been set (R144). Before the run
start the field is acted on at the run start (R131). -/
def State.stopNow (s : State) (p : PortId) (r : Run) (startUnderWay : Bool) : State :=
  match r.phase with
  | .start => if s.waitsForBus p r startUnderWay then s.stopHere p r else s
  | .pauseHold => s.stopHere p r
  | .pollGap => s.stopHere p r
  | .pauseFree => s.stopHere p r
  | .runStart => s
  | .address => s
  | .poll => s
  | .write => s
  | .read => s
  | .stop _ => s

/-- A CANCEL sets stopping, and ending where the job is recurring, and the port acts at once where its
stop point is here (R98, R144). -/
def State.stopRun (s : State) (slot : Nat) (startUnderWay : Bool) : State :=
  let s1 := s.modifyJob slot (fun j =>
    { j with stopping := true, ending := j.ending || j.recurring })
  match (s.job? slot).bind (fun j => j.port) with
  | some p =>
    match s1.run? p with
    | some r =>
      if r.slot == slot && !s.stopping slot then s1.stopNow p r startUnderWay else s1
    | none => s1
  | none => s1

/-- The effect of a CANCEL on the job it found (R97, R98, R99, R100). -/
def State.cancelJob (s : State) (slot : Nat) (startUnderWay : Bool) : State :=
  match s.job? slot with
  | none => s
  | some j =>
    match j.state with
    | .pending => s.cancelWaiting slot
    | .ready => s.cancelWaiting slot
    | .active =>
      if !j.unbreakable then s.stopRun slot startUnderWay
      else if j.recurring then s.modifyJob slot (fun j => { j with ending := true })
      else s
    | .done => s

/-- CANCEL as one event: the reply first, then the effect, so that a held reply follows the CANCEL
reply (R96, R103). -/
def cancelBody (startUnderWay : Bool) (r : Request) (s : State) : State :=
  match s.findSlot (tagAt r.payload) with
  | none => s.answer r (Status.noSuchJob.code :: tagBytes (tagAt r.payload))
  | some slot =>
    match s.job? slot with
    | none => s.answer r (Status.noSuchJob.code :: tagBytes (tagAt r.payload))
    | some j =>
      (s.answer r (j.cancelStatus.code :: tagBytes (tagAt r.payload))).cancelJob slot startUnderWay

/-- CANCEL (R96); while a reply is held only a CANCEL of the held tag is carried out (R103, R166). -/
def execCancel (startUnderWay : Bool) (s : State) : Host.Outcome State Fault Refusal :=
  let s1 := s.beforeEvent
  .next (s1.serve .cancel (fun r => tagAt r.payload == s1.link.slot.tag) (cancelBody startUnderWay))

/-! ## JOB_STATUS, FETCH, RELEASE -/

/-- The 16 bytes of a JOB_STATUS reply (R25, section 10.5). -/
def Job.statusBytes (j : Job) : List Byte :=
  let active := j.state == .active
  let done := j.state == .done
  tagBytes j.tag ++ [j.state.code] ++ bytesBE 4 j.admission.toNat ++ [recordFlags j]
    ++ bytesBE 2 j.runsDone
    ++ [b1 j.missed, if active then b1 j.run.curStep else 0, if active then b1 j.run.curByte else 0,
        if done then (j.run.outcome.getD .done).code else JobOutcome.done.code]
    ++ bytesBE 2 (if done then j.run.received else 0)

/-- JOB_STATUS's reply payload (R25). -/
def State.statusPayload (s : State) (p : List Byte) : List Byte :=
  match (s.findSlot (tagAt p)).bind s.job? with
  | some j => Status.ok.code :: j.statusBytes
  | none => [Status.noSuchJob.code]

/-- JOB_STATUS (R25). -/
def execJobStatus (s : State) : Host.Outcome State Fault Refusal :=
  .next (s.beforeEvent.serve .jobStatus openAlways (replying (fun p s => (s, s.statusPayload p))))

/-- FETCH's reply payload: its four checks in order, then the bytes (R49). -/
def State.fetchPayload (s : State) (p : List Byte) : List Byte :=
  let off := fieldAt p 2 2
  let len := fieldAt p 4 2
  if len = 0 ∨ 256 < len then badField 4
  else match (s.findSlot (tagAt p)).bind s.job? with
    | none => [Status.noSuchJob.code]
    | some j =>
      if j.state != .done then [Status.notDone.code]
      else if j.run.received < off + len then badField 2
      else Status.ok.code :: tagBytes j.tag ++ bytesBE 2 off ++ bytesBE 2 len ++ s.readArea j off len

/-- FETCH (R49). -/
def execFetch (s : State) : Host.Outcome State Fault Refusal :=
  .next (s.beforeEvent.serve .fetch openNever (replying (fun p s => (s, s.fetchPayload p))))

/-- RELEASE's effect: a DONE job is freed (R26). Every reply carries the tag named (R176). -/
def releaseEffect (p : List Byte) (s : State) : State × List Byte :=
  match s.findSlot (tagAt p) with
  | none => (s, Status.noSuchJob.code :: tagBytes (tagAt p))
  | some slot =>
    match s.job? slot with
    | none => (s, Status.noSuchJob.code :: tagBytes (tagAt p))
    | some j =>
      if j.state == .done then (s.freeJob slot, Status.ok.code :: tagBytes (tagAt p))
      else (s, Status.notDone.code :: tagBytes (tagAt p))

/-- RELEASE (R26). -/
def execRelease (s : State) : Host.Outcome State Fault Refusal :=
  .next (s.beforeEvent.serve .release openNever (replying releaseEffect))

end Sys2Proof.Machine
end

