-- ==== Sys2Proof/Machine/Runs.lean ====
section
/-! DEFINITION. Dispatch and the run of a job on the wire (chapters 5 and 7). -/

namespace Sys2Proof.Machine

/-- DISPATCH (R92). -/
def execDispatch (p : PortId) (s : State) : Host.Outcome State Fault Refusal :=
  .next (s.beforeEvent.dispatchPort p)

/-! ## The run on the wire -/

/-- The run of a port, where it is in a phase. -/
def State.runIn (s : State) (p : PortId) (phase : Phase) : Option Run :=
  match s.run? p with
  | some r => if r.phase == phase then some r else none
  | none => none

/-- The run start: a set stopping field ends the run; a SOLE port checks its lines; then step 0 (R131,
R145). -/
def State.beginRun (s : State) (p : PortId) (r : Run) : State :=
  if s.stopping r.slot then
    (s.modifyRecord r.slot RunRecord.failHere).finishRun p r .cancelled .idle
  else if (s.port p).settings.mode == .sole && !bothHigh (s.linesOf p) then
    s.handBack p r false (.recovering .run .release)
  else
    match s.job? r.slot with
    | some j => takeSteps p r 0 j.steps s
    | none => s

/-- RUN_START (R131). -/
def execRunStart (p : PortId) (lines : Levels) (s : State) : Host.Outcome State Fault Refusal :=
  let s1 := s.beforeEvent
  .next (match s1.runIn p .runStart with
    | some r => (s1.readLines p lines).beginRun p r
    | none => s1)

/-- The phase after a START: the address byte of the step (R132, R133). -/
def Step.addressPhase : Step → Phase
  | .poll _ _ _ => .poll
  | _ => .address

/-- A START or repeated START completes: the bus is held, the first START of the run is the start time,
a tracker becomes BUSY; a set stopping field is acted on here (R126, R128, R131, R144). -/
def State.completeStart (s : State) (p : PortId) (r : Run) (st : Step) : State :=
  let s1 := if r.started then s
    else s.modifyRecord r.slot (fun rec => { rec with startTime := s.time })
  let r1 : Run := { r with held := true, started := true, phase := st.addressPhase }
  let s2 := (s1.trackStart p).setRun p r1
  if s2.stopping r.slot then s2.stopHere p r1 else s2

/-- START (R126, R131): a START needs the bus free, with both lines high; a repeated START does not. That a
SOLE port too gives no START while a line reads low after its run start, and waits without limit, is the
model's choice, taken from the table of R126 (log 31). -/
def execStart (x : PortLines) (s : State) : Host.Outcome State Fault Refusal :=
  let s1 := s.beforeWire x.port
  .next (match s1.runIn x.port .start with
    | some r =>
      match s1.stepOf r with
      | some st =>
        if r.held then s1.completeStart x.port r st
        else
          let s2 := s1.readLines x.port x.lines
          if (s2.port x.port).busFree x.lines then s2.completeStart x.port r st else s2
      | none => s1
    | none => s1)

/-- A failure by NAK: position and outcome are written, and the STOP of R140 begins (R140). -/
def State.failByNak (s : State) (p : PortId) (r : Run) (o : JobOutcome) : State :=
  (s.modifyRecord r.slot (fun rec => { rec.failHere with outcome := some o })).setRun p
    { r with phase := .stop .failed }

/-- The address byte of an ADDRESS has been sent, and its ninth bit reads `nak` (R132). -/
def State.addressSent (p : PortId) (s : State) (r : Run) (nak : Bool) : State :=
  let s1 := s.sendByte p r
  let r1 : Run := { r with committed := r.committed || !nak }
  if s1.stopping r.slot then s1.stopHere p r1
  else if nak then s1.failByNak p r1 .absent
  else s1.nextStep p r1

/-- ADDRESS (R132): bits of the address byte, up to its acknowledge. -/
def execAddress (p : PortId) (bits : List Bool) (s : State) : Host.Outcome State Fault Refusal :=
  .next ((s.beforeWire p).onBits p .address bits (State.addressSent p))

/-- The limit of the POLL a run is at (R133). -/
def State.pollLimit (s : State) (r : Run) : Nat :=
  match s.stepOf r with
  | some (.poll _ limit _) => limit
  | _ => 0

/-- The address byte of a POLL attempt has been sent, and its ninth bit reads `nak` (R133). -/
def State.attemptSent (p : PortId) (s : State) (r : Run) (nak : Bool) : State :=
  let s1 := s.sendByte p r
  let r1 : Run := { r with committed := r.committed || !nak }
  if s1.stopping r.slot then s1.stopHere p r1
  else if !nak then s1.nextStep p r1
  else if r.attempts < s1.pollLimit r then s1.setRun p { r1 with phase := .stop .pollGap }
  else s1.failByNak p r1 .pollLimit

/-- POLL (R133): bits of the address byte of an attempt, up to its acknowledge. -/
def execPoll (p : PortId) (bits : List Bool) (s : State) : Host.Outcome State Fault Refusal :=
  .next ((s.beforeWire p).onBits p .poll bits (State.attemptSent p))

/-- POLL_GAP_END (R133). -/
def execPollGapEnd (p : PortId) (s : State) : Host.Outcome State Fault Refusal :=
  let s1 := s.beforeEvent
  .next (match s1.run? p with
    | some r => if s1.pollGapDue r then s1.endPollGap p r else s1
    | none => s1)

/-- The count of the WRITE or READ a run is at (R134, R135). -/
def State.stepCount (s : State) (r : Run) : Nat :=
  match s.stepOf r with
  | some (.write n) => n
  | some (.read n) => n
  | _ => 0

/-- The current byte of the job of a run. -/
def State.curByte (s : State) (r : Run) : Nat :=
  match s.job? r.slot with
  | some j => j.run.curByte
  | none => 0

/-- The step goes on to its next byte, or the next step is taken after the last (R134, R135). -/
def State.nextByte (s : State) (p : PortId) (r : Run) : State :=
  if s.curByte r + 1 < s.stepCount r then
    (s.modifyRecord r.slot (fun rec => { rec with curByte := rec.curByte + 1 })).setRun p r
  else s.nextStep p r

/-- The write data byte at the write cursor has been sent, and its ninth bit reads `nak` (R134). -/
def State.dataSent (p : PortId) (s : State) (r : Run) (nak : Bool) : State :=
  let s1 := s.sendByte p r
  let r1 : Run := if nak then r else { r with committed := true, writeCursor := r.writeCursor + 1 }
  if s1.stopping r.slot then s1.stopHere p r1
  else if nak then s1.failByNak p r1 .refused
  else s1.nextByte p r1

/-- WRITE (R134): bits of the write byte, up to its acknowledge. -/
def execWrite (p : PortId) (bits : List Bool) (s : State) : Host.Outcome State Fault Refusal :=
  .next ((s.beforeWire p).onBits p .write bits (State.dataSent p))

/-- The ninth bit of a read byte has been given: an ACK, or a NAK by the continuation rule or a set
stopping field (R135). -/
def State.dataReceived (p : PortId) (s : State) (r : Run) (_ : Bool) : State :=
  let nak := (s.job? r.slot).any Job.readNak
  let r1 : Run := { r with committed := r.committed || !nak }
  let s1 := s.giveNinth p nak
  if s1.stopping r.slot then s1.stopHere p r1 else s1.nextByte p r1

/-- READ (R135): bits of the read byte; it is written and counted at its eighth, then acknowledged or
NAKed. -/
def execRead (p : PortId) (bits : List Bool) (s : State) : Host.Outcome State Fault Refusal :=
  .next ((s.beforeWire p).onBits p .read bits (State.dataReceived p))

/-- Bits of the byte in progress that have passed before an event of the port, which brings their readings
with it: what the row of that byte does with them. None has passed where a stretch timeout is due, since
the port waits for SCL there (R125; log 7). -/
def State.passBits (s : State) (p : PortId) (bits : List Bool) : State :=
  if bits.isEmpty || s.stretchDue p then s
  else match s.run? p with
    | some r =>
      match r.phase with
      | .address => s.onBits p .address bits (State.addressSent p)
      | .poll => s.onBits p .poll bits (State.attemptSent p)
      | .write => s.onBits p .write bits (State.dataSent p)
      | .read => s.onBits p .read bits (State.dataReceived p)
      | _ => s
    | none => s

/-- A STOP completes: the bus is released and a tracker becomes FREE; then what the STOP was given for
(R133, R136, R138, R140, R144, R145). -/
def State.completeStop (s : State) (p : PortId) (r : Run) (after : AfterStop) : State :=
  let r1 : Run := { r with held := false }
  let s1 := (s.trackFree p).releaseBus p r1
  if s1.stopping r.slot then
    (s1.noteFail r).finishRun p r1 .cancelled .idle
  else
    match after with
    | .step => s1.nextStep p r1
    | .pauseFree => s1.setRun p { r1 with phase := .pauseFree, pauseCount := 0 }
    | .pollGap => s1.setRun p { r1 with phase := .pollGap, pauseCount := 0 }
    | .implied => s1.finishRun p r1 .done .idle
    | .failed =>
      s1.finishRun p r1 (((s1.job? r.slot).bind (fun j => j.run.outcome)).getD .absent) .idle
    | .stopping => s1.finishRun p r1 .cancelled .idle

/-- STOP (R136). -/
def execStop (p : PortId) (s : State) : Host.Outcome State Fault Refusal :=
  let s1 := s.beforeWire p
  .next (match s1.run? p with
    | some r =>
      match r.phase with
      | .stop after => s1.completeStop p r after
      | _ => s1
    | none => s1)

/-- PAUSE_HOLD_END (R137). -/
def execPauseHoldEnd (p : PortId) (s : State) : Host.Outcome State Fault Refusal :=
  let s1 := s.beforeEvent
  .next (match s1.run? p with
    | some r => if s1.pauseHoldDue r then s1.nextStep p r else s1
    | none => s1)

/-- PAUSE_FREE_END (R138). -/
def execPauseFreeEnd (p : PortId) (s : State) : Host.Outcome State Fault Refusal :=
  let s1 := s.beforeEvent
  .next (match s1.run? p with
    | some r => if s1.pauseFreeDue r then s1.nextStep p r else s1
    | none => s1)

/-- STRETCH_TIMEOUT (R117, R141). -/
def execStretchTimeout (p : PortId) (bits : List Bool) (s : State) :
    Host.Outcome State Fault Refusal :=
  let s1 := s.beforeEvent
  .next (if s1.stretchDue p then s1.stretchTimeout p else s1.passBits p bits)

/-! ## Arbitration (R129, R142, R143) -/

/-- Whether a run stands where arbitration is checked (R129): at a 1 bit of an address or write byte or
the NAK of a read byte, in a repeated START, at the release of SDA in a STOP. -/
def State.contested (s : State) (r : Run) : Bool :=
  match r.phase with
  | .address => s.bitContested r
  | .poll => s.bitContested r
  | .write => s.bitContested r
  | .read => s.bitContested r
  | .start => r.held
  | .stop _ => true
  | .runStart => false
  | .pollGap => false
  | .pauseHold => false
  | .pauseFree => false

/-- What an arbitration loss does (R140, R142, R143, R145). -/
def State.loseArbitration (s : State) (p : PortId) (r : Run) : State :=
  match s.job? r.slot with
  | none => s
  | some j =>
    if j.stopping then (s.noteFail r).finishRun p r .cancelled .idle
    else if r.phase == .stop .failed then s.finishRun p r (j.run.outcome.getD .absent) .idle
    else if r.committed then (s.noteFail r).finishRun p r .arbLostPartial .idle
    else if 0 < j.retriesLeft then s.handBack p r true .idle
    else (s.noteFail r).finishRun p r .arbLost .idle

/-- ARBITRATION_LOSS (R142). -/
def execArbitrationLoss (p : PortId) (bits : List Bool) (s : State) :
    Host.Outcome State Fault Refusal :=
  let s1 := (s.beforeWire p).passBits p bits
  .next (match s1.run? p with
    | some r =>
      if (s1.port p).settings.mode == .shared && s1.contested r then s1.loseArbitration p r else s1
    | none => s1)

end Sys2Proof.Machine
end

