-- ==== Sys2Proof/Machine/Ports.lean ====
section
/-! DEFINITION. The port controllers (chapter 6): CONFIG_PORT, GET_PORT, presence, settle, recovery,
re-check and the bus tracker. -/

namespace Sys2Proof.Machine

/-! ## CONFIG_PORT (R107 to R110) -/

/-- The settings a CONFIG_PORT payload gives, or the payload of its refusal: checks 1 to 7 (R107). -/
def portSettingsOf (p : List Byte) : Except (List Byte) (PortId × PortSettings) :=
  match portOfCode (byteAt p 0) with
  | none => .error (badField 0)
  | some port =>
    match PortMode.ofCode (byteAt p 1) with
    | none => .error (badField 1)
    | some mode =>
      match Speed.ofCode (byteAt p 2) with
      | none => .error (badField 2)
      | some speed =>
        match Slowing.ofCode (byteAt p 3) with
        | none => .error (badField 3)
        | some slowing =>
          if fieldAt p 4 2 = 0 then .error (badField 4)
          else match PresenceSetting.ofCode (byteAt p 6) with
            | none => .error (badField 6)
            | some presence =>
              match onOffOfCode (byteAt p 9) with
              | none => .error (badField 9)
              | some en =>
                .ok (port,
                  { mode := mode
                    speed := speed
                    slowing := slowing
                    stretchLimit := BitVec.ofNat 16 (fieldAt p 4 2)
                    presence := presence
                    settleTime := BitVec.ofNat 16 (fieldAt p 7 2)
                    noticeEn := en })

/-- A port that is RUNNING or RECOVERING refuses CONFIG_PORT (R107). -/
def PortState.busy : PortState → Bool
  | .running _ => true
  | .recovering _ _ => true
  | _ => false

/-- EV6 or EV7 has an edge setting other than OFF (R69, R107). -/
def State.sharedLineWatches (s : State) : Bool :=
  (s.line 6).config.edge != .off || (s.line 7).config.edge != .off

/-- The slots of the PENDING and READY jobs of a port, in admission order (R104). -/
def State.slotsToClose (s : State) (p : PortId) : List Nat :=
  s.admissionOrder (s.liveSlots.filter (fun i =>
    (s.job? i).any (fun j => j.port == some p && (j.state == .pending || j.state == .ready))))

/-- Ends jobs PORT_CLOSED in order (R104). -/
def closeJobs : List Nat → State → State
  | [], s => s
  | slot :: rest, s => closeJobs rest (s.endWithoutRun slot .portClosed)

/-- Replaces a port's settings, and its tracker: FREE at the CONFIG_PORT that sets SHARED, kept while
the mode stays SHARED, none otherwise (R108, R128). -/
def Port.configure (x : Port) (c : PortSettings) : Port :=
  { x with
    settings := c
    tracker :=
      match c.mode with
      | .shared => if x.settings.mode == .shared then x.tracker else some .free
      | .off => none
      | .sole => none }

/-- EV6 and EV7 stop being available: their samplers are cleared, and an edge of theirs that was to be
detected is not (R69). -/
def State.takeSharedPins (s : State) : State :=
  let s1 := s.setLine 6 { s.line 6 with sampler := Sampler.cleared }
  let s2 := s1.setLine 7 { s1.line 7 with sampler := Sampler.cleared }
  s2.setTick { s2.tick with edges := s2.tick.edges.filter (fun n => decide (n < 6)) }

/-- A port comes into service (R109). -/
def State.openPort (s : State) (p : PortId) : State :=
  let s1 := if p == .b then s.takeSharedPins else s
  match (s1.port p).settings.presence with
  | .ignore => s1.enterService p
  | .require => if (s1.port p).present then s1.enterSettling p false else s1.enterDetached p

/-- A port in service takes new settings (R110). -/
def State.reconfigure (s : State) (p : PortId) : State :=
  let x := s.port p
  match x.settings.presence, x.state with
  | .ignore, .detached => s.enterService p
  | .ignore, .settling _ => s.enterService p
  | .ignore, _ => s
  | .require, .detached => s
  | .require, .settling _ => if x.settleDue then s.endSettle p false else s
  | .require, .idle => if x.present then s else s.enterDetached p
  | .require, .stuck _ => if x.present then s else s.enterDetached p
  | .require, _ => s

/-- A port is set OFF: its jobs are ended, then it enters OFF (R104, R110). -/
def State.closePort (s : State) (p : PortId) : State :=
  (closeJobs (s.slotsToClose p) s).setPortState p .off

/-- An accepted CONFIG_PORT: all seven settings at once, then the port's state (R108). -/
def State.applySettings (s : State) (p : PortId) (c : PortSettings) : State :=
  let old := (s.port p).settings.mode
  let s1 := s.setPort p ((s.port p).configure c)
  match old, c.mode with
  | .off, .off => s1
  | _, .off => s1.closePort p
  | .off, _ => s1.openPort p
  | _, _ => s1.reconfigure p

/-- CONFIG_PORT's checks and effect; the OK reply carries the port's state after the event (R107,
R108). -/
def configPortEffect (lines : Levels) (p : List Byte) (s : State) : State × List Byte :=
  match portSettingsOf p with
  | .error e => (s, e)
  | .ok (port, c) =>
    if (s.port port).state.busy then (s, [Status.portBusy.code])
    else if port == .b && c.mode != .off && s.sharedLineWatches then (s, [Status.pinInUse.code])
    else
      let s1 := (s.readLines port lines).applySettings port c
      (s1, [Status.ok.code, (s1.port port).state.shown.code])

/-- CONFIG_PORT (R107). -/
def execConfigPort (lines : Levels) (s : State) : Host.Outcome State Fault Refusal :=
  .next (s.beforeEvent.serve .configPort openNever (replying (configPortEffect lines)))

/-! ## GET_PORT (R122) -/

/-- The tag of the ACTIVE job of a RUNNING port, else 0 (R122). -/
def State.activeTag (s : State) (p : PortId) : Tag :=
  match s.run? p with
  | some r =>
    match s.job? r.slot with
    | some j => j.tag
    | none => 0
  | none => 0

/-- The 17 bytes of a GET_PORT reply (R122, section 10.5). -/
def State.portBytes (s : State) (p : PortId) : List Byte :=
  let x := s.port p
  let c := x.settings
  [portCode p, c.mode.code, c.speed.code, c.slowing.code] ++ bytesBE 2 c.stretchLimit.toNat
    ++ [c.presence.code] ++ bytesBE 2 c.settleTime.toNat
    ++ [boolCode c.noticeEn, x.state.shown.code, x.state.reported.code, boolCode x.present,
        x.notice.code, b1 x.ready.length]
    ++ tagBytes (s.activeTag p)

/-- GET_PORT's reply payload (R122). -/
def State.portPayload (s : State) (p : List Byte) : List Byte :=
  match portOfCode (byteAt p 0) with
  | some port => Status.ok.code :: s.portBytes port
  | none => badField 0

/-- GET_PORT (R122). -/
def execGetPort (s : State) : Host.Outcome State Fault Refusal :=
  .next (s.beforeEvent.serve .getPort openNever (replying (fun p s => (s, s.portPayload p))))

/-! ## Presence, settle, recovery, re-check -/

/-- PRESENCE_LOSS (R113): the debounced change to ABSENT that is due is taken. -/
def execPresenceLoss (p : PortId) (bits : List Bool) (s : State) :
    Host.Outcome State Fault Refusal :=
  let s1 := s.beforeEvent.passBits p bits
  .next (if (s1.port p).presenceDue && (s1.port p).present then s1.takePresence p else s1)

/-- PRESENCE_GAIN (R115): the debounced change to PRESENT that is due is taken. -/
def execPresenceGain (p : PortId) (s : State) : Host.Outcome State Fault Refusal :=
  let s1 := s.beforeEvent
  .next (if (s1.port p).presenceDue && !(s1.port p).present then s1.takePresence p else s1)

/-- SETTLE_END (R115). -/
def execSettleEnd (p : PortId) (s : State) : Host.Outcome State Fault Refusal :=
  let s1 := s.beforeEvent
  .next (if (s1.port p).settleDue then s1.endSettle p true else s1)

/-- The STOP of a recovery completes, which frees a tracker where SDA rises at it (R128), and the line
check of stage 6 follows (R117, R118). -/
def State.endOfRecovery (s : State) (p : PortId) (origin : Origin) (lines : Levels) : State :=
  let s1 := (if lines.sda then s.trackFree p else s).readLines p lines
  if bothHigh lines then s1.endRecovery p origin else s1.failRecovery p origin

/-- What a recovery comes to by its readings (R117, R118): its end by the line check, its failure with
SDA still low after nine pulses, or a later stage; readings that move nothing leave it as it stands (log
20). -/
def State.finishRecovery (s : State) (p : PortId) (origin : Origin) (stage : RecoveryStage)
    (sda : List Bool) (lines : Option Levels) : State :=
  match stage.after sda, lines with
  | none, _ => s.failRecovery p origin
  | some (.stop _), some l => s.endOfRecovery p origin l
  | some next, _ => if next = stage then s else s.setPortState p (.recovering origin next)

/-- RECOVERY_END (R118). -/
def execRecoveryEnd (p : PortId) (sda : List Bool) (lines : Option Levels) (s : State) :
    Host.Outcome State Fault Refusal :=
  let s1 := s.beforeWire p
  .next (match (s1.port p).state with
    | .recovering origin stage => s1.finishRecovery p origin stage sda lines
    | _ => s1)

/-- STUCK_RECHECK (R119). -/
def execStuckRecheck (p : PortId) (s : State) : Host.Outcome State Fault Refusal :=
  let s1 := s.beforeEvent
  .next (if (s1.port p).recheckDue then s1.recheck p else s1)

/-! ## The bus tracker (R128) -/

/-- BUS_START_SEEN (R128). -/
def execBusStartSeen (p : PortId) (s : State) : Host.Outcome State Fault Refusal :=
  .next (s.beforeEvent.trackStart p)

/-- BUS_STOP_SEEN (R128). -/
def execBusStopSeen (p : PortId) (s : State) : Host.Outcome State Fault Refusal :=
  .next (s.beforeEvent.trackFree p)

/-- TRACKER_TIMEOUT (R128). -/
def execTrackerTimeout (p : PortId) (s : State) : Host.Outcome State Fault Refusal :=
  let s1 := s.beforeEvent
  .next (if (s1.port p).trackerDue then s1.trackFree p else s1)

end Sys2Proof.Machine
end

