-- ==== Sys2Proof/Machine/Reports.lean ====
section
/-! DEFINITION. The report queue's request READ_REPORTS and the end of an ATTN pulse (chapter 8). -/

namespace Sys2Proof.Machine

/-- The source of a notice; a job report has none (R149). -/
def Report.source : Report → Option Source
  | .job _ => none
  | .event line _ _ _ _ => some (.line line)
  | .port p _ _ => some (.port p)

/-- A delivered notice's source has notice state none (R85, R121, R156). -/
def State.deliverNotice (s : State) (r : Report) : State :=
  match r.source with
  | some src => s.setNotice src .none
  | none => s

/-- The notice states of the removed notices become none, in order of removal (R156). -/
def deliverNotices : List Report → State → State
  | [], s => s
  | r :: rest, s => deliverNotices rest (s.deliverNotice r)

/-- Whether a delivered notice's source has moved on since it was queued: a line's count is not 0 and
differs (R85), a port's reported state differs (R121). -/
def State.movedOn (s : State) : Report → Bool
  | .job _ => false
  | .event line _ count _ _ =>
    (s.line line).capture.count != 0 && (s.line line).capture.count != count
  | .port p shown _ => (s.port p).state.reported != shown

/-- The delivery comparison of a removed notice (R85, R121). -/
def State.compareDelivered (s : State) (r : Report) : State :=
  match r.source with
  | some src => if s.movedOn r then s.askNotice src else s
  | none => s

/-- The delivery comparisons in order of removal (R156). -/
def compareAll : List Report → State → State
  | [], s => s
  | r :: rest, s => compareAll rest (s.compareDelivered r)

/-- One READ_REPORTS event: removal, notice states, drain, delivery comparisons (R156). -/
def State.removeReports (s : State) (k : Nat) : State :=
  let taken := s.reports.queued.take k
  let s1 := s.setReports { s.reports with queued := s.reports.queued.drop k }
  compareAll taken (deliverNotices taken s1).drain

/-- READ_REPORTS' check and effect; the reply carries k, the number queued at the end of the event and
the removed reports (R155). -/
def readReportsEffect (p : List Byte) (s : State) : State × List Byte :=
  let max := (byteAt p 0).toNat
  if max = 0 ∨ 3 < max then (s, badField 0)
  else
    let taken := s.reports.queued.take max
    let s1 := s.removeReports max
    (s1, [Status.ok.code, b1 taken.length, b1 s1.reports.queued.length]
      ++ taken.flatMap Report.bytes)

/-- READ_REPORTS (R155). -/
def execReadReports (s : State) : Host.Outcome State Fault Refusal :=
  .next (s.beforeEvent.serve .readReports openNever (replying readReportsEffect))

/-- ATTN_PULSE_END (R159). -/
def execAttnPulseEnd (s : State) : Host.Outcome State Fault Refusal :=
  let s1 := s.beforeEvent
  .next (if s1.reports.pulseDue then s1.setReports s1.reports.endPulse else s1)

end Sys2Proof.Machine
end

