-- ==== Sys2Proof/Machine/TimeBase.lean ====
section
/-! DEFINITION. The time base (chapter 3): GET_TIME, SET_TIME, the tick increment, expiry, AT triggers
and EVERY matches. -/

namespace Sys2Proof.Machine

/-- GET_TIME's OK payload (R54). -/
def State.timePayload (s : State) : List Byte :=
  Status.ok.code :: timeBytes s.time ++ [boolCode s.timeSet]

/-- GET_TIME (R54). -/
def execGetTime (s : State) : Host.Outcome State Fault Refusal :=
  .next (s.beforeEvent.serve .getTime openNever (replying (fun _ s => (s, s.timePayload))))

/-- The time a SET_TIME payload asks for, or the payload of its refusal (R55). -/
def newTime (p : List Byte) (now : Time) : Except (List Byte) Time :=
  if byteAt p 0 == 0 then .ok (timeAt p 1)
  else if byteAt p 0 == 1 then
    if byteAt p 1 != 0 then .error (badField 1)
    else if byteAt p 2 != 0 then .error (badField 2)
    else .ok (now + (BitVec.ofNat 32 (fieldAt p 3 4)).signExtend 48)
  else .error (badField 0)

/-- SET_TIME's checks and effect; nothing is evaluated at the request (R55). -/
def setTimeEffect (p : List Byte) (s : State) : State × List Byte :=
  match newTime p s.time with
  | .error e => (s, e)
  | .ok t =>
    ({ s with time := t, timeSet := true }, Status.ok.code :: timeBytes s.time ++ timeBytes t)

/-- SET_TIME (R55): it lies between two increments, so every act of the present one comes before it. -/
def execSetTime (s : State) : Host.Outcome State Fault Refusal :=
  .next (s.finishTick.serve .setTime openNever (replying setTimeEffect))

/-- TICK_INCREMENT: what the last increment left is carried out, then the blocks count and sample, and
the time advances (R51, R53; log 3). -/
def execTickIncrement (i : Increment) (s : State) : Host.Outcome State Fault Refusal :=
  .next (s.finishTick.advance i.samples i.early)

/-- The next slot on which the time base's evaluation has an effect, where its job carries `tag`, with
the slots after it (R56). -/
def State.nextEval (s : State) (tag : Tag) : Option (Nat × List Nat) :=
  match s.nextDue s.tick.evals with
  | slot :: rest => if (s.job? slot).any (fun j => j.tag == tag) then some (slot, rest) else none
  | [] => none

/-- DEADLINE_EXPIRY (R63): the time base takes the named job, which is next in its evaluation and
expires. -/
def execDeadlineExpiry (tag : Tag) (s : State) : Host.Outcome State Fault Refusal :=
  let s1 := s.finishEventIfBegun
  .next (match s1.nextEval tag with
    | some (slot, rest) =>
      match s1.verdict slot with
      | .expires => (s1.endWithoutRun slot .expired).setEvals rest
      | _ => s1
    | none => s1)

/-- AT_TRIGGER (R57): the time base takes the named job, which is next in its evaluation and has its
AT time reached. -/
def execAtTrigger (tag : Tag) (s : State) : Host.Outcome State Fault Refusal :=
  let s1 := s.finishEventIfBegun
  .next (match s1.nextEval tag with
    | some (slot, rest) =>
      match s1.verdict slot with
      | .fires t => (s1.fireAt slot t).setEvals rest
      | _ => s1
    | none => s1)

/-- EVERY_MATCH (R60): the time base takes the named job, which is next in its evaluation and has a
match. -/
def execEveryMatch (tag : Tag) (s : State) : Host.Outcome State Fault Refusal :=
  let s1 := s.finishEventIfBegun
  .next (match s1.nextEval tag with
    | some (slot, rest) =>
      match s1.verdict slot with
      | .hits => (s1.matchEvery slot).setEvals rest
      | _ => s1
    | none => s1)

end Sys2Proof.Machine
end

