-- ==== Sys2Proof/Machine/Dispatch.lean ====
section
/-! DEFINITION. `exec`: the effect of each command, one arm per row of spec/opcode_table.json. -/

namespace Sys2Proof.Machine

def exec (i : Instr) (s : State) : Host.Outcome State Fault Refusal :=
  match i with
  | .pinReset rate => Sys2Proof.Machine.execPinReset rate s
  | .byteReceived data stop => Sys2Proof.Machine.execByteReceived data stop s
  | .gapTimeout => Sys2Proof.Machine.execGapTimeout s
  | .unknownKind => Sys2Proof.Machine.execUnknownKind s
  | .ping => Sys2Proof.Machine.execPing s
  | .getSummary => Sys2Proof.Machine.execGetSummary s
  | .setLink => Sys2Proof.Machine.execSetLink s
  | .reset => Sys2Proof.Machine.execReset s
  | .resetTakesEffect => Sys2Proof.Machine.execResetTakesEffect s
  | .getTime => Sys2Proof.Machine.execGetTime s
  | .setTime => Sys2Proof.Machine.execSetTime s
  | .configLine => Sys2Proof.Machine.execConfigLine s
  | .getCapture => Sys2Proof.Machine.execGetCapture s
  | .clearCapture => Sys2Proof.Machine.execClearCapture s
  | .configPort lines => Sys2Proof.Machine.execConfigPort lines s
  | .getPort => Sys2Proof.Machine.execGetPort s
  | .submit => Sys2Proof.Machine.execSubmit s
  | .cancel startUnderWay => Sys2Proof.Machine.execCancel startUnderWay s
  | .jobStatus => Sys2Proof.Machine.execJobStatus s
  | .fetch => Sys2Proof.Machine.execFetch s
  | .release => Sys2Proof.Machine.execRelease s
  | .readReports => Sys2Proof.Machine.execReadReports s
  | .replySent => Sys2Proof.Machine.execReplySent s
  | .holdLimit => Sys2Proof.Machine.execHoldLimit s
  | .tickIncrement increment => Sys2Proof.Machine.execTickIncrement increment s
  | .deadlineExpiry tag => Sys2Proof.Machine.execDeadlineExpiry tag s
  | .atTrigger tag => Sys2Proof.Machine.execAtTrigger tag s
  | .everyMatch tag => Sys2Proof.Machine.execEveryMatch tag s
  | .edgeDetected line => Sys2Proof.Machine.execEdgeDetected line s
  | .eventTrigger tag => Sys2Proof.Machine.execEventTrigger tag s
  | .presenceLoss port bits => Sys2Proof.Machine.execPresenceLoss port bits s
  | .presenceGain port => Sys2Proof.Machine.execPresenceGain port s
  | .settleEnd port => Sys2Proof.Machine.execSettleEnd port s
  | .recoveryEnd port sda lines => Sys2Proof.Machine.execRecoveryEnd port sda lines s
  | .stuckRecheck port => Sys2Proof.Machine.execStuckRecheck port s
  | .busStartSeen port => Sys2Proof.Machine.execBusStartSeen port s
  | .busStopSeen port => Sys2Proof.Machine.execBusStopSeen port s
  | .trackerTimeout port => Sys2Proof.Machine.execTrackerTimeout port s
  | .dispatch port => Sys2Proof.Machine.execDispatch port s
  | .runStart port lines => Sys2Proof.Machine.execRunStart port lines s
  | .start port => Sys2Proof.Machine.execStart port s
  | .address port bits => Sys2Proof.Machine.execAddress port bits s
  | .poll port bits => Sys2Proof.Machine.execPoll port bits s
  | .pollGapEnd port => Sys2Proof.Machine.execPollGapEnd port s
  | .write port bits => Sys2Proof.Machine.execWrite port bits s
  | .read port bits => Sys2Proof.Machine.execRead port bits s
  | .stop port => Sys2Proof.Machine.execStop port s
  | .pauseHoldEnd port => Sys2Proof.Machine.execPauseHoldEnd port s
  | .pauseFreeEnd port => Sys2Proof.Machine.execPauseFreeEnd port s
  | .stretchTimeout port bits => Sys2Proof.Machine.execStretchTimeout port bits s
  | .arbitrationLoss port bits => Sys2Proof.Machine.execArbitrationLoss port bits s
  | .attnPulseEnd => Sys2Proof.Machine.execAttnPulseEnd s

end Sys2Proof.Machine
end

