-- ==== Sys2Proof/Safety.lean ====
section
/-! DEFINITION. The laws that the spec states about every state the NK284 can be in, and the words that
the statements about single commands use. -/

namespace Sys2Proof.Machine

/-! ## Laws -/

/-- The pool's bytes are in the canonical form of Memory.lean (R41; log 12). -/
def State.PoolLaw (s : State) : Prop := Memory.wf s.pool = true

/-- At no time is port B's mode other than OFF while EV6 or EV7 has an edge setting other than OFF
(R69). -/
def State.PinLaw (s : State) : Prop :=
  s.portB.settings.mode ≠ .off →
    (s.line 6).config.edge = .off ∧ (s.line 7).config.edge = .off

/-- A port drives neither line unless it is RUNNING or RECOVERING (R109 to R119, R146). A run drives
neither before the run start, while it waits for the bus to be free, in a POLL gap and in the wait of a
PAUSE FREE (R126, R131, R133, R138), a recovery neither at stage 1 (R117; log 29). -/
def State.DriveLaw (s : State) : Prop :=
  ∀ p, (∀ r, (s.port p).state = .running r →
      r.phase = .runStart ∨ (r.phase = .start ∧ r.held = false) ∨ r.phase = .pollGap ∨
        r.phase = .pauseFree) →
    (∀ origin stage, (s.port p).state = .recovering origin stage → stage = .release) →
    (s.port p).drive = Drive.released

/-- Between two commands fewer than nine bits of a byte have been taken, and none where the run stands in
no byte; for each of them what the port did with SDA is recorded (R124, R127). -/
def State.BitLaw (s : State) : Prop :=
  ∀ p r, (s.port p).state = .running r →
    r.bits.length < 9 ∧ (r.phase.inByte = false → r.bits = []) ∧
      (r.bits ≠ [] → (s.port p).pulls.length = r.bits.length)

/-- A capture record's count lies in 0 to 255, it is held exactly when its count is not 0, and a record
that is not held carries time 0 and polarity RISING (R73). -/
def Capture.Lawful (c : Capture) : Prop :=
  c.count ≤ 255 ∧ (c.held = true ↔ c.count ≠ 0) ∧
    (c.held = false → c.time = 0 ∧ c.polarity = .rising)

/-- Every line's capture record is lawful (R73). -/
def State.CaptureLaw (s : State) : Prop := ∀ l ∈ s.lines, l.capture.Lawful

/-- The transmit queue holds at most four replies, content waits for room only behind a full queue or a
pending RESET, the hold limit is 1 to 255, and while a RESET is pending no request is in hand and its
OK reply is the last in the queue (R167, R168, R170, R173). -/
def State.LinkLaw (s : State) : Prop :=
  s.link.tx.length ≤ 4 ∧ 1 ≤ s.link.holdLimit ∧ s.link.holdLimit ≤ 255 ∧
  (∀ w, s.link.slot = .waitingRoom w → s.link.tx.length = 4 ∨ s.link.resetPending = true) ∧
  (s.link.resetPending = true → s.link.inHand = none ∧
    ∃ ahead lseq, s.link.tx = ahead ++ [{ kind := 0x8F, lseq := lseq, payload := [0x00] }])

/-- The reservations a job holds (R12, R15). -/
def Job.reservations (j : Job) : Nat :=
  (if j.standing then 1 else 0) + (if j.runRes then 1 else 0)

/-- The reservations the jobs in a list of slots hold together. -/
def reservationsIn : List (Option Job) → Nat
  | [] => 0
  | some j :: rest => j.reservations + reservationsIn rest
  | none :: rest => reservationsIn rest

/-- Queued reports and outstanding reservations never exceed 48 (R148), the reservation count is the
number of reservations the live jobs hold (R150), the room is 0 whenever a notice is owed (R154), and
a PENDING job holds no run reservation (R15). -/
def State.QueueLaw (s : State) : Prop :=
  s.reports.queued.length + s.reports.reserved ≤ 48 ∧
  s.reports.reserved = reservationsIn s.slots ∧
  (s.reports.owed ≠ [] → s.reports.room = 0) ∧
  (∀ slot j, s.job? slot = some j → j.state = .pending → j.runRes = false)

/-- A notice source that exists: a line 0 to 7 or a port (R153). -/
def Source.Exists : Source → Prop
  | .line n => n < 8
  | .port _ => True

/-- The notices of a source that are queued. -/
def ReportQueue.noticesOf (q : ReportQueue) (src : Source) : Nat :=
  (q.queued.filter (fun r => r.source == some src)).length

/-- A source is on the owed list, once, exactly when its notice state is owed; it has one notice queued
when its notice state is queued and else none (R83, R120, R153). -/
def State.NoticeLaw (s : State) : Prop :=
  s.lines.length = 8 ∧ s.reports.owed.Nodup ∧
  (∀ src ∈ s.reports.owed, src.Exists) ∧
  (∀ r ∈ s.reports.queued, ∀ src, r.source = some src → src.Exists) ∧
  (∀ src : Source, src.Exists →
    (src ∈ s.reports.owed ↔ s.noticeState src = .owed) ∧
    s.reports.noticesOf src = if s.noticeState src = .queued then 1 else 0)

/-- There are 32 slots (R1); live tags are not 0 and no two live jobs share one (R2); every job holds as
many blocks as it needs, in ascending order, all of them blocks of the pool (R42), and no block is held
by two jobs (R41). -/
def State.TableLaw (s : State) : Prop :=
  s.slots.length = 32 ∧
  (∀ slot j, s.job? slot = some j →
    j.tag ≠ 0 ∧ j.blocks.length = (j.writeLen + j.readTotal + 31) / 32 ∧
    j.blocks.Pairwise (· < ·) ∧ ∀ b ∈ j.blocks, b < 64) ∧
  (∀ slot slot' j j', s.job? slot = some j → s.job? slot' = some j' → slot ≠ slot' →
    j.tag ≠ j'.tag ∧ ∀ b ∈ j.blocks, b ∉ j'.blocks)

/-- What a job's state says of its reservations, class and cancel fields: a standing reservation in
every state but DONE (R12, R20), a run reservation exactly for a recurring READY or ACTIVE job (R15),
DONE only for a long single-shot job (R5), and no PENDING job with ending or stopping set (R21,
R101). -/
def Job.Lawful (j : Job) : Prop :=
  (j.standing = true ↔ j.state ≠ .done) ∧
  (j.runRes = true ↔ j.recurring = true ∧ (j.state = .ready ∨ j.state = .active)) ∧
  (j.state = .done → j.long = true ∧ j.recurring = false) ∧
  (j.state = .pending → j.ending = false ∧ j.stopping = false)

/-- A job is on port p's ready list exactly when it is READY with port p, and it stands there once
(R88); a port is RUNNING exactly when it has one ACTIVE job, which is of that port (R92); and every live
job is lawful. -/
def State.DispatchLaw (s : State) : Prop :=
  (∀ p, (s.port p).ready.Nodup) ∧
  (∀ p slot, slot ∈ (s.port p).ready ↔
    ∃ j, s.job? slot = some j ∧ j.state = .ready ∧ j.port = some p) ∧
  (∀ p r, (s.port p).state = .running r →
    ∃ j, s.job? r.slot = some j ∧ j.state = .active ∧ j.port = some p) ∧
  (∀ slot j, s.job? slot = some j → j.state = .active →
    ∃ p r, j.port = some p ∧ (s.port p).state = .running r ∧ r.slot = slot) ∧
  (∀ slot j, s.job? slot = some j → j.Lawful)

/-- A job's reply is held exactly while the held-reply slot is HELD with its tag, and then it is a NOW
job on a port, READY or ACTIVE (R13, R168); a HELD slot names a live job. -/
def State.HeldLaw (s : State) : Prop :=
  (∀ slot j, s.job? slot = some j →
    (j.replyHeld = true ↔ ∃ lseq n, s.link.slot = .held j.tag lseq n) ∧
    (j.replyHeld = true →
      j.trigger = .now ∧ j.port ≠ none ∧ (j.state = .ready ∨ j.state = .active))) ∧
  (∀ tag lseq n, s.link.slot = .held tag lseq n → ∃ slot j, s.job? slot = some j ∧ j.tag = tag)

/-! ## Words of the statements -/

/-- Nothing is under way that a command must wait for: the time base has evaluated every job, and no act
of the event unit has begun (R56, R75; log 3). Edges may still be to be detected. No act of an increment
is in hand between two steps (log 4). -/
def State.Quiet (s : State) : Prop :=
  s.tick.evals = [] ∧ s.tick.edging = false ∧ s.tick.ahead = false

/-- A request of kind `k` is in hand and can be taken (R166). -/
def State.MayTake (s : State) (k : Kind) (r : Request) : Prop :=
  s.Quiet ∧ s.link.inHand = some r ∧ r.kind = k.code ∧ s.link.tx.length < 4 ∧
    ∀ w, s.link.slot ≠ .waitingRoom w

/-- As `MayTake`, with no reply held (R166). -/
def State.MayCarryOut (s : State) (k : Kind) (r : Request) : Prop :=
  s.MayTake k r ∧ s.link.slot = .empty

/-- The state in which request `r` has left the hand and its reply stands at the tail of the transmit
queue (R166). -/
def State.replied (s : State) (r : Request) (payload : List Byte) : State :=
  { s with link := { s.link with
      inHand := none
      tx := s.link.tx ++ [{ kind := r.kind + 0x80, lseq := r.lseq, payload := payload }] } }

/-- The payload size a request kind requires; for SUBMIT the least (section 10.5, R166). -/
def Kind.payloadBytes : Kind → Nat
  | .ping => 0
  | .getSummary => 0
  | .setLink => 3
  | .reset => 0
  | .getTime => 0
  | .setTime => 7
  | .configLine => 5
  | .getCapture => 1
  | .clearCapture => 2
  | .configPort => 10
  | .getPort => 1
  | .submit => 23
  | .cancel => 2
  | .jobStatus => 2
  | .fetch => 6
  | .release => 2
  | .readReports => 1

/-- What the spec gives every block but the time base at either reset (R27, R41, R87, R106, R123, R161,
R174). -/
def State.AtReset (t : State) : Prop :=
  t.slots = List.replicate 32 none ∧ t.counter = 0 ∧ t.freeBlocks = List.range 64 ∧
  (∀ n, n < 8 →
    (t.line n).config = { edge := .off, mode := .last, filter := 0, noticeEn := false } ∧
    (t.line n).sampler.settled = .unknown ∧ (t.line n).sampler.runCount = 0 ∧
    (t.line n).capture = { held := false, time := 0, polarity := .rising, count := 0 } ∧
    (t.line n).notice = .none ∧ t.available n = true) ∧
  (∀ p, (t.port p).settings =
      { mode := .off, speed := .standard, slowing := .pct0, stretchLimit := 1638,
        presence := .ignore, settleTime := 6554, noticeEn := true } ∧
    (t.port p).state = .off ∧ (t.port p).drive = { scl := .released, sda := .released } ∧
    (t.port p).present = false ∧ (t.port p).presRun = 0 ∧
    (t.port p).tracker = none ∧ (t.port p).ready = [] ∧ (t.port p).notice = .none) ∧
  t.reports = { queued := [], reserved := 0, owed := [], attnMode := .level,
                enables := { job := true, event := true, port := true }, pulse := none } ∧
  t.reports.attn = false ∧
  t.link.parser = .hunt ∧ t.link.gap = 0 ∧ t.link.inHand = none ∧ t.link.tx = [] ∧
  t.link.txdAtRest = some true ∧ t.link.slot = .empty ∧ t.link.holdLimit = 16

/-- The effect on the report queue and on a source's notice state of the source's asking for a notice
with content `r` (R83, R120, R153): `q` and `n` before, `q'` and `n'` after. -/
def NoticeAsked (src : Source) (r : Report) (enabled : Bool) (q : ReportQueue) (n : NoticeState)
    (q' : ReportQueue) (n' : NoticeState) : Prop :=
  if enabled = true ∧ n = .none then
    if 1 ≤ q.room then q' = q.push r ∧ n' = .queued
    else q' = { q with owed := q.owed ++ [src] } ∧ n' = .owed
  else q' = q ∧ n' = n

/-- The job with `tag` in `slot` is the next the time base evaluates, with `rest` after it, and no act
of the event unit, nor any that comes before the evaluation, is under way (R56; log 4). -/
def State.Evaluates (s : State) (tag : Tag) (slot : Nat) (rest : List Nat) (j : Job) : Prop :=
  s.tick.edging = false ∧ s.tick.ahead = false ∧ s.tick.evals = slot :: rest ∧
    s.job? slot = some j ∧ j.tag = tag

/-- The state that a command answers next. -/
def State.after (s : State) (c : Instr) : State :=
  match exec c s with
  | .next t => t
  | _ => s

/-- The state with `rest` left to evaluate. -/
def State.leftToEvaluate (s : State) (rest : List Nat) : State :=
  { s with tick := { s.tick with evals := rest } }

/-- Port `p` is RUNNING run `r` in the given phase, and nothing else has to be taken before an event on
its wires. -/
def State.OnWire (s : State) (p : PortId) (r : Run) (phase : Phase) : Prop :=
  s.Quiet ∧ s.stretchDue p = false ∧ (s.port p).state = .running r ∧ r.phase = phase

/-- Run `r` stands in a byte `b` that it sends: the address byte of an ADDRESS, its 7-bit target and then the
direction bit, 0 for W and 1 for R; that of a POLL attempt, its target and then 0; or the write data byte
at the write cursor (R127, R132 to R134). -/
def State.Sends (s : State) (r : Run) (j : Job) (b : Byte) : Prop :=
  (∃ target dir, r.phase = .address ∧ j.steps[j.run.curStep]? = some (.address target dir) ∧
    b = BitVec.ofNat 8 (2 * target.toNat + match dir with | .w => 0 | .r => 1)) ∨
  (∃ target limit gap, r.phase = .poll ∧ j.steps[j.run.curStep]? = some (.poll target limit gap) ∧
    b = BitVec.ofNat 8 (2 * target.toNat)) ∨
  (r.phase = .write ∧ b = Memory.read s.pool (poolAddr j.blocks r.writeCursor))

/-- The readings of a byte's bits show no arbitration lost in the bits from `from'` on that are checked: in
SHARED mode none of them reads low (R129). -/
def Port.Wins (x : Port) (from' : Nat) (all : List Bool) (checked : Nat → Prop) : Prop :=
  x.settings.mode = .shared → ∀ k, from' ≤ k → checked k → all[k]? ≠ some false

/-- What a port does with SDA in the nine bits of a byte it sends: for eight data bits, the most significant
first, it pulls SDA low for a 0 and releases it for a 1; in the ninth it releases it (R124, R127). -/
def pullsSent (b : Byte) : List Pull :=
  [b.getLsbD 7, b.getLsbD 6, b.getLsbD 5, b.getLsbD 4, b.getLsbD 3, b.getLsbD 2, b.getLsbD 1,
    b.getLsbD 0, true].map (fun one => if one then .released else .low)

/-- What a port does with SDA in the nine bits of a byte it receives: it releases it for eight bits, and in
the ninth releases it for a NAK and pulls it low for an ACK (R127, R135). -/
def pullsGiven (naked : Bool) : List Pull :=
  List.replicate 8 .released ++ [if naked then .released else .low]

/-- A port of run `r` after bits of the byte in progress: `all` are the byte's readings up to now, and `acts`
is what a port does with SDA in the byte's nine bits. The last bit has ended, with SCL low (R124). -/
def Port.withBits (x : Port) (r : Run) (all : List Bool) (acts : List Pull) : Port :=
  { x with
    state := .running { r with bits := all }
    drive := { scl := .low, sda := acts.getD (all.length - 1) .released }
    pulls := (if r.bits = [] then [] else x.pulls) ++ (acts.take all.length).drop r.bits.length
    stretch := 0 }

/-- The state after the row of the byte that a port's run stands in, with these readings; the same state
where it stands in none. -/
def State.afterBits (s : State) (p : PortId) (bits : List Bool) : State :=
  match s.run? p with
  | some r =>
    match r.phase with
    | .address => s.after (.address p bits)
    | .poll => s.after (.poll p bits)
    | .write => s.after (.write p bits)
    | .read => s.after (.read p bits)
    | _ => s
  | none => s

/-- A command that brings readings of the byte in progress does what the row of that byte does with them
and then what it does without any; where a stretch timeout is due, none of them counts (R125; log 7). -/
def State.TakesBitsFirst (s : State) (p : PortId) (c : List Bool → Instr) : Prop :=
  ∀ bits, bits ≠ [] →
    exec (c bits) s = exec (c []) (if s.stretchDue p = true then s else s.afterBits p bits)

/-- The job in a run's slot, ACTIVE with its stopping field clear. -/
def State.RunsJob (s : State) (r : Run) (j : Job) : Prop :=
  s.job? r.slot = some j ∧ j.state = .active ∧ j.stopping = false

end Sys2Proof.Machine

namespace Sys2Proof

/-- Whether a command comes after the whole evaluation of the present increment and after an act of the
event unit that has begun (R56, R75): every command but the time base's own events, the event unit's and
a pin reset. -/
def Instr.followsTheEvaluation : Instr → Bool
  | .pinReset _ => false
  | .tickIncrement _ => false
  | .deadlineExpiry _ => false
  | .atTrigger _ => false
  | .everyMatch _ => false
  | .edgeDetected _ => false
  | .eventTrigger _ => false
  | _ => true

/-- Whether a command carries out requests of a kind (section 10.5). -/
def Instr.carriesOut (c : Instr) (k : Machine.Kind) : Prop :=
  match k with
  | .ping => c = .ping
  | .getSummary => c = .getSummary
  | .setLink => c = .setLink
  | .reset => c = .reset
  | .getTime => c = .getTime
  | .setTime => c = .setTime
  | .configLine => c = .configLine
  | .getCapture => c = .getCapture
  | .clearCapture => c = .clearCapture
  | .configPort => ∃ l, c = .configPort l
  | .getPort => c = .getPort
  | .submit => c = .submit
  | .cancel => ∃ b, c = .cancel b
  | .jobStatus => c = .jobStatus
  | .fetch => c = .fetch
  | .release => c = .release
  | .readReports => c = .readReports

end Sys2Proof
end

