-- ==== Sys2Proof/Certificates/Slice0/Obligations.lean ====
section
/-! DEFINITION. The statements about the model, one `Prop` each. -/

open Sys2Proof Sys2Proof.Machine

/-! ## The machine -/

/-- A step takes the command at the front of the queue and carries it out with the queue's rest; on an
empty queue the part idles (log 15: the model's choice). -/
def Obligations.StepRunsTheFrontCommand : Prop :=
  (∀ (c : Instr) (rest : List Instr) (s : State),
    step { s with pending := c :: rest } = exec c { s with pending := rest }) ∧
  (∀ s : State, s.pending = [] → step s = .next s)

/-- Every command but the time base's own, the event unit's and a pin reset comes after the whole
evaluation of the present increment, which is one event with the advance, and after an act of the event
unit that has begun: it acts on the state these leave. An edge and an EVENT trigger come after the whole
evaluation too. The evaluation takes the jobs one by one in the order of the list: for each the expiry
test first, then its trigger test, with the effects of DEADLINE_EXPIRY, AT_TRIGGER and EVERY_MATCH; a job
that passes neither test stands. The event unit's act detects its edges in order, then takes the EVENT
triggers in order, with the effects of EDGE_DETECTED and EVENT_TRIGGER, and then closes with the notice
requests. -/
def Obligations.TheEvaluationIsTakenAsAWhole : Prop :=
  (∀ (c : Instr) (s : State), c.followsTheEvaluation = true →
    exec c s = exec c s.beforeEvent ∧
    s.beforeEvent.tick.evals = [] ∧ s.beforeEvent.tick.edging = false) ∧
  (∀ s : State, s.finishTimeBase.tick.evals = [] ∧
    (∀ n, exec (.edgeDetected n) s = exec (.edgeDetected n) s.finishTimeBase) ∧
    (∀ tag, exec (.eventTrigger tag) s = exec (.eventTrigger tag) s.finishTimeBase)) ∧
  (∀ s : State, s.beforeEvent =
    (if s.tick.edging = true then s.finishEventUnit else s).finishTimeBase) ∧
  (∀ s : State, s.tick.evals = [] → s.finishTimeBase = s) ∧
  (∀ (s : State) (slot : Nat) (rest : List Nat), s.tick.evals = slot :: rest → s.job? slot = none →
    s.finishTimeBase = (s.leftToEvaluate rest).finishTimeBase) ∧
  (∀ (s : State) (slot : Nat) (rest : List Nat) (j : Job), s.tick.edging = false →
    s.tick.evals = slot :: rest → s.job? slot = some j →
    let expires : Prop := (j.state = .pending ∨ j.state = .ready) ∧
      ∃ d, j.deadline = some d ∧ d.toNat < s.time.toNat
    let reached : Prop := j.state = .pending ∧
      ∃ t0, j.trigger = .atTime t0 ∧ t0.toNat ≤ s.time.toNat
    let hits : Prop := (j.state = .pending ∨ j.state = .ready ∨ j.state = .active) ∧
      ∃ period phase runs, j.trigger = .every period phase runs ∧
        s.time.toNat % period.toNat = phase.toNat
    let takes (c : Instr) : Prop := ∃ t, exec c s = .next t ∧ t.tick.evals = rest ∧
      s.finishTimeBase = t.finishTimeBase
    (expires → takes (.deadlineExpiry j.tag)) ∧
    (¬expires → reached → takes (.atTrigger j.tag)) ∧
    (¬expires → hits → takes (.everyMatch j.tag)) ∧
    (¬expires → ¬reached → ¬hits →
      s.finishTimeBase = (s.leftToEvaluate rest).finishTimeBase)) ∧
  (∀ (s : State) (n : Nat) (rest : List Nat), s.tick.evals = [] → s.tick.edges = n :: rest →
    ∃ t, exec (.edgeDetected n) s = .next t ∧ t.tick.edges = rest ∧
      s.finishEventUnit = t.finishEventUnit) ∧
  (∀ (s : State) (slot : Nat) (edge : Time) (rest : List (Nat × Time)), s.tick.evals = [] →
    s.tick.edges = [] → s.tick.triggers = (slot, edge) :: rest →
    (∀ j, s.job? slot = some j → ∃ t, exec (.eventTrigger j.tag) s = .next t ∧
      t.tick.triggers = rest ∧ s.finishEventUnit = t.finishEventUnit) ∧
    (s.job? slot = none → s.finishEventUnit =
      State.finishEventUnit { s with tick := { s.tick with triggers := rest } })) ∧
  (∀ s : State, s.tick.edges = [] → s.tick.triggers = [] → s.finishEventUnit = s.closeEvents)

/-- Both resets set the values the spec gives, from every state; a pin reset also sets the time and
samples the straps, and a RESET taking effect leaves time, time-set and bit rate as they are. -/
def Obligations.ResetsSetTheResetValues : Prop :=
  (∀ (rate : BitVec 2) (s : State), ∃ t, exec (.pinReset rate) s = .next t ∧ t.AtReset ∧
    t.time = 0 ∧ t.timeSet = false ∧ t.link.rate = rate) ∧
  (∀ (s : State) (r : Reply), s.Quiet → s.link.resetPending = true → s.link.tx = [r] →
    ∃ t, exec .resetTakesEffect s = .next t ∧ t.AtReset ∧
      t.time = s.time ∧ t.timeSet = s.timeSet ∧ t.link.rate = s.link.rate) ∧
  State.reset.AtReset ∧ State.reset.time = 0 ∧ State.reset.timeSet = false

/-- Every command answers a next state and leaves the queue of commands alone (log 2: the model's
choice), and none but TICK_INCREMENT, SET_TIME and PIN_RESET moves the time or the time-set
indicator. -/
def Obligations.OnlyTheTimeBaseMovesTheTime : Prop :=
  ∀ (c : Instr) (s : State), ∃ t, exec c s = .next t ∧ t.pending = s.pending ∧
    ((∀ i, c ≠ .tickIncrement i) → c ≠ .setTime → (∀ r, c ≠ .pinReset r) →
      t.time = s.time ∧ t.timeSet = s.timeSet)

/-! ## The host link -/

/-- The parser's table: what each byte does in HUNT, LENGTH, BODY and CHECK, and a complete frame
becoming the request in hand. A byte comes as its eight data bits, the least significant first, and its
stop bit, which reads low at a framing error. The gap count is below 128 in a frame in progress. -/
def Obligations.ParserTakesEachByteByItsState : Prop :=
  ∀ (s : State) (b : Byte), s.Quiet → (s.link.parser ≠ .hunt → s.link.gap < 128) →
    let line (x : Byte) : List Bool := [x.getLsbD 0, x.getLsbD 1, x.getLsbD 2, x.getLsbD 3,
      x.getLsbD 4, x.getLsbD 5, x.getLsbD 6, x.getLsbD 7]
    (s.link.parser = .hunt →
      exec (.byteReceived (line b) false) s = .next s ∧
      exec (.byteReceived (line b) true) s = .next (if b = 0xA5
        then { s with link := { s.link with parser := .length none, gap := 0 } } else s)) ∧
    (s.link.parser ≠ .hunt →
      exec (.byteReceived (line b) false) s
        = .next { s with link := { s.link with parser := .hunt, gap := 0 } }) ∧
    (s.link.parser = .length none →
      exec (.byteReceived (line b) true) s
        = .next { s with link := { s.link with parser := .length (some b), gap := 0 } }) ∧
    (∀ hi, s.link.parser = .length (some hi) →
      exec (.byteReceived (line b) true) s = .next { s with link := { s.link with
        parser := if 2 ≤ hi.toNat * 256 + b.toNat ∧ hi.toNat * 256 + b.toNat ≤ 322
          then .body (hi.toNat * 256 + b.toNat) [] else .hunt
        gap := 0 } }) ∧
    (∀ len bytes, s.link.parser = .body len bytes →
      exec (.byteReceived (line b) true) s = .next { s with link := { s.link with
        parser := if bytes.length + 1 < len then .body len (bytes ++ [b])
          else .check len (bytes ++ [b]) none
        gap := 0 } }) ∧
    (∀ len bytes, s.link.parser = .check len bytes none →
      exec (.byteReceived (line b) true) s
        = .next { s with link := { s.link with parser := .check len bytes (some b), gap := 0 } }) ∧
    (∀ len kind lseq payload hi, s.link.parser = .check len (kind :: lseq :: payload) (some hi) →
      len = payload.length + 2 →
      exec (.byteReceived (line b) true) s = .next { s with link := { s.link with
        parser := .hunt
        gap := 0
        inHand :=
          if hi.toNat * 256 + b.toNat = (crc (bytesBE 2 len ++ kind :: lseq :: payload)).toNat ∧
              s.link.inHand = none ∧ s.link.resetPending = false
          then some { kind := kind, lseq := lseq, payload := payload } else s.link.inHand } })

/-- Counts that reach their limit: at 128 a frame in progress is discarded, at 64 an ATTN pulse ends,
and at hold limit × 1024 PENDING_NOTIFY is built for the held reply, whose job is then no longer held.
(The time of admission of a held job is its trigger time, log 18.) -/
def Obligations.CountsAtTheirLimitEndWhatTheyTime : Prop :=
  (∀ s : State, s.Quiet → s.link.parser ≠ .hunt → 128 ≤ s.link.gap →
    exec .gapTimeout s = .next { s with link := { s.link with parser := .hunt, gap := 0 } }) ∧
  (∀ (s : State) (n : Nat), s.Quiet → s.reports.pulse = some n → 64 ≤ n →
    exec .attnPulseEnd s = .next { s with reports := { s.reports with pulse := none } }) ∧
  (∀ (s : State) (tag : Tag) (lseq : Byte) (n slot : Nat) (j : Job), s.Quiet →
    s.link.slot = .held tag lseq n → s.link.holdLimit * 1024 ≤ n →
    s.findSlot tag = some slot → s.job? slot = some j →
    let w : Reply := ⟨0xC0, lseq, 0x04 :: (tagBytes j.tag ++ bytesBE 4 j.admission.toNat
      ++ timeBytes j.run.triggerTime)⟩
    exec .holdLimit s = .next { s with
      slots := s.slots.set slot (some { j with replyHeld := false })
      link := if s.link.tx.length < 4 ∧ s.link.resetPending = false
        then { s.link with tx := s.link.tx ++ [w], slot := .empty }
        else { s.link with slot := .waitingRoom w } })

/-- The link's checks in order: an unknown kind, a payload of the wrong size, a request that may not be
carried out while a reply is held. Each is answered with the status alone and changes nothing else (a
SET_TIME acts on what the whole increment has left, a CONFIG_LINE and a GET_CAPTURE on what the event
unit's act has left, log 3). -/
def Obligations.TheLinkChecksEachRequestFirst : Prop :=
  (∀ (s : State) (r : Request), s.Quiet → s.link.inHand = some r → s.link.tx.length < 4 →
    (∀ w, s.link.slot ≠ .waitingRoom w) →
    r.kind ∉ ([0x01, 0x02, 0x03, 0x0F, 0x10, 0x11, 0x20, 0x21, 0x22, 0x30, 0x31, 0x40, 0x41, 0x42,
      0x43, 0x44, 0x50] : List Byte) →
    exec .unknownKind s = .next { s with link := { s.link with
      inHand := none
      tx := s.link.tx ++ [{ kind := if 0x80 ≤ r.kind.toNat then 0xFF else r.kind + 0x80,
                            lseq := r.lseq, payload := [0x13] }] } }) ∧
  (∀ (s : State) (r : Request) (k : Kind) (c : Instr), s.Quiet → c.carriesOut k →
    let u : State := match k with
      | .setTime => s.finishTick
      | .configLine => s.finishEventUnit
      | .getCapture => s.finishEventUnit
      | _ => s
    u.MayTake k r →
    ((if k = .submit then r.payload.length < 23 else r.payload.length ≠ k.payloadBytes) →
      exec c s = .next (u.replied r [0x10])) ∧
    ((if k = .submit then 23 ≤ r.payload.length else r.payload.length = k.payloadBytes) →
      ∀ tag lseq n, u.link.slot = .held tag lseq n →
        k ≠ .ping → k ≠ .getSummary → k ≠ .jobStatus → k ≠ .reset →
        (k = .cancel → tagAt r.payload ≠ tag) →
        exec c s = .next (u.replied r [0x14])))

/-- PING and GET_SUMMARY answer OK with the fields of their tables and change nothing else; both are
carried out while a reply is held. -/
def Obligations.PingAndGetSummaryAnswerTheirTables : Prop :=
  (∀ (s : State) (r : Request), s.MayTake .ping r → r.payload = [] →
    exec .ping s = .next (s.replied r
      ([0x00, 0x4E, 0x4B, 0x02, 0x84, 0x01, 32, 64, 48, 8, 2, s.link.rate.zeroExtend 8]
        ++ tagBytes (match s.link.slot with | .held tag _ _ => tag | _ => 0)))) ∧
  (∀ (s : State) (r : Request), s.MayTake .getSummary r → r.payload = [] →
    exec .getSummary s = .next (s.replied r
      [0x00, BitVec.ofNat 8 (s.slots.countP Option.isNone), BitVec.ofNat 8 s.freeBlocks.length,
       BitVec.ofNat 8 s.reports.queued.length, BitVec.ofNat 8 s.reports.reserved,
       BitVec.ofNat 8 s.reports.owed.length, s.portA.state.shown.code, s.portB.state.shown.code,
       match s.link.slot with | .empty => 0 | _ => 1]))

/-- SET_LINK's three checks in order, and its effect: hold limit, ATTN mode and enables at once; a
pulse in progress runs on only where the mode stays PULSE. -/
def Obligations.SetLinkReplacesItsSettings : Prop :=
  ∀ (s : State) (r : Request) (limit mode enables : Byte), s.MayCarryOut .setLink r →
    r.payload = [limit, mode, enables] →
    (limit = 0 → exec .setLink s = .next (s.replied r [0x11, 0, 0])) ∧
    (limit ≠ 0 → 1 < mode.toNat → exec .setLink s = .next (s.replied r [0x11, 0, 1])) ∧
    (limit ≠ 0 → mode.toNat ≤ 1 → 7 < enables.toNat →
      exec .setLink s = .next (s.replied r [0x11, 0, 2])) ∧
    (limit ≠ 0 → mode.toNat ≤ 1 → enables.toNat ≤ 7 →
      exec .setLink s = .next (({ s with
        reports := { s.reports with
          attnMode := if mode = 0 then .level else .pulse
          enables := { job := enables.getLsbD 0, event := enables.getLsbD 1,
                       port := enables.getLsbD 2 }
          pulse := if s.reports.attnMode = .pulse ∧ mode = 1 then s.reports.pulse else none }
        link := { s.link with holdLimit := limit.toNat } } : State).replied r [0x00]))

/-- RESET's OK reply is queued and no request is taken from then on; a reply that leaves the queue
makes room, first for held content, unless a RESET is pending; and where the OK reply of the RESET is
what leaves, the reset takes effect (log 17). On TXD the reply's frame is sent byte after byte, each a
start bit low, eight data bits with the least significant first, and a stop bit high; `sent` is the
model's record of these levels (log 16). Between replies TXD rests high. -/
def Obligations.RepliesLeaveFromTheHead : Prop :=
  (∀ (s : State) (r : Request), s.MayTake .reset r → r.payload = [] →
    exec .reset s = .next
      (({ s with link := { s.link with resetPending := true } } : State).replied r [0x00])) ∧
  (∀ (s : State) (r : Reply) (rest : List Reply), s.Quiet → s.link.tx = r :: rest →
    let bits (b : Byte) : List Bool := [false, b.getLsbD 0, b.getLsbD 1, b.getLsbD 2, b.getLsbD 3,
      b.getLsbD 4, b.getLsbD 5, b.getLsbD 6, b.getLsbD 7, true]
    let body := r.kind :: r.lseq :: r.payload
    let covered := bytesBE 2 body.length ++ body
    let txd := (0xA5 :: (covered ++ bytesBE 2 (crc covered).toNat)).flatMap bits
    (s.link.resetPending = false → ∀ w, s.link.slot = .waitingRoom w →
      exec .replySent s = .next { s with link := { s.link with
        tx := rest ++ [w], slot := .empty, sent := txd } }) ∧
    (s.link.resetPending = false → (∀ w, s.link.slot ≠ .waitingRoom w) →
      exec .replySent s = .next { s with link := { s.link with tx := rest, sent := txd } }) ∧
    (s.link.resetPending = true → rest ≠ [] →
      exec .replySent s = .next { s with link := { s.link with tx := rest, sent := txd } }) ∧
    (s.link.resetPending = true → rest = [] → exec .replySent s = exec .resetTakesEffect s ∧
      ∃ t, exec .replySent s = .next t ∧ t.link.sent = txd)) ∧
  (∀ l : Link, l.tx = [] → l.txdAtRest = some true)

/-! ## The time base -/

/-- GET_TIME and SET_TIME: the checks of SET_TIME in order, the new time in either mode, time-set, and
the readings each reply carries. Nothing else changes. A SET_TIME lies between two increments: it acts on
the state that everything the present increment brings about has left (log 3), at the time before the
change. -/
def Obligations.TimeRequestsReadAndSetTheTime : Prop :=
  (∀ (s : State) (r : Request), s.MayCarryOut .getTime r → r.payload = [] →
    exec .getTime s = .next (s.replied r
      (0x00 :: (timeBytes s.time ++ [if s.timeSet then 1 else 0])))) ∧
  (∀ (s : State) (r : Request) (mode a b c d e f : Byte), let u := s.finishTick
    u.MayCarryOut .setTime r → r.payload = [mode, a, b, c, d, e, f] →
    u.time = s.time ∧
    (1 < mode.toNat → exec .setTime s = .next (u.replied r [0x11, 0, 0])) ∧
    (mode = 1 → a ≠ 0 → exec .setTime s = .next (u.replied r [0x11, 0, 1])) ∧
    (mode = 1 → a = 0 → b ≠ 0 → exec .setTime s = .next (u.replied r [0x11, 0, 2])) ∧
    (mode = 0 →
      let t : Time := BitVec.ofNat 48 (natBE [a, b, c, d, e, f])
      exec .setTime s = .next (({ u with time := t, timeSet := true } : State).replied r
        (0x00 :: (timeBytes s.time ++ timeBytes t)))) ∧
    (mode = 1 → a = 0 → b = 0 →
      let t : Time := s.time + (BitVec.ofNat 32 (natBE [c, d, e, f])).signExtend 48
      exec .setTime s = .next (({ u with time := t, timeSet := true } : State).replied r
        (0x00 :: (timeBytes s.time ++ timeBytes t)))))

/-- A tick increment, from every state: what the last increment left is carried out (`w`, log 3), every
block counts and samples (`u`), the acts that come before the time base's event are taken (`v`), and the
time rises by one, modulo 2^48. What was left is carried out in the order time base, event unit, port A,
port B, report queue and host link (log 3: the model's choice), and the act of a block, there and before
the time base's event, has the effects of the commands that name what is due of it, in the order stated
(log 3: the model's choice). An act before the time base's event reads the time of the increment and
compares with the time before it, but a dispatch reads the time before it (log 4); no other command comes
between them (log 3). Left to evaluate are, in admission order, exactly the PENDING jobs with an AT
trigger, the PENDING or READY jobs with a deadline and the EVERY jobs that are PENDING, READY or ACTIVE.
Counting and sampling move no job, report, reply or request and no setting, capture record or notice, and
raise every duration by one: settle, re-check, PAUSE and POLL gap, gap count, hold count, pulse count; that
they come before every act of the increment is the model's choice (log 32). -/
def Obligations.TickRaisesTheTimeAndTheDurations : Prop :=
  (∀ s : State, s.finishTick = ((((s.beforeEvent.takeAct .eventUnit).takeAct (.port .a)).takeAct
    (.port .b)).takeAct .link)) ∧
  (∀ s : State, s.tick.evals = [] → s.tick.edging = false →
    s.takeAct .eventUnit = s.finishEventUnit ∧
    (∀ p, exec (.dispatch p) s = .next (s.takeAct (.dispatch p))) ∧
    (∀ p,
      let s1 := s.after
        (if (s.port p).present = true then .presenceLoss p [] else .presenceGain p)
      let s2 := s1.after (.stretchTimeout p [])
      let s3 := match s2.run? p with
        | some r => match r.phase with
          | .pollGap => s2.after (.pollGapEnd p)
          | .pauseHold => s2.after (.pauseHoldEnd p)
          | .pauseFree => s2.after (.pauseFreeEnd p)
          | _ => s2
        | none => s2
      let s4 := match (s3.port p).state with
        | .settling _ => s3.after (.settleEnd p)
        | .stuck _ => s3.after (.stuckRecheck p)
        | _ => s3
      s.takeAct (.port p) = s4.after (.trackerTimeout p)) ∧
    s.takeAct .link = ((s.after .attnPulseEnd).after .holdLimit).after .gapTimeout) ∧
  (∀ (x : State) (act : TickAct), x.takeEarly act = match act with
    | .dispatch p => x.dispatchPort p
    | act =>
      let y := State.takeAct { x with time := x.time + 1, tick := { x.tick with ahead := true } } act
      { y with time := x.time, tick := { y.tick with ahead := false } }) ∧
  ∀ (s : State) (m : Samples) (early : List TickAct),
    let w := s.finishTick
    let u := w.countAndSample m
    let v := early.foldl State.takeEarly u
    let waits (j : Job) : Prop :=
      ((∃ t0, j.trigger = .atTime t0) ∧ j.state = .pending) ∨
      (j.deadline ≠ none ∧ (j.state = .pending ∨ j.state = .ready)) ∨
      ((∃ period phase runs, j.trigger = .every period phase runs) ∧
        (j.state = .pending ∨ j.state = .ready ∨ j.state = .active))
    ∃ t, exec (.tickIncrement ⟨m, early⟩) s = .next t ∧
      t.time = s.time + 1 ∧ t.timeSet = s.timeSet ∧
      t = { v with time := s.time + 1, tick := { v.tick with evals := t.tick.evals } } ∧
      (∀ i, i ∈ t.tick.evals ↔ ∃ j, t.job? i = some j ∧ waits j) ∧ t.tick.evals.Nodup ∧
      t.tick.evals.Pairwise (fun i k => ∀ x y, t.job? i = some x → t.job? k = some y →
        (t.counter - y.admission).toNat ≤ (t.counter - x.admission).toNat) ∧
      u.time = s.time ∧ u.slots = w.slots ∧ u.counter = w.counter ∧ u.pool = w.pool ∧
      u.reports = { w.reports with pulse := w.reports.pulse.map (· + 1) } ∧
      u.link = { w.link with
        gap := if w.link.parser = .hunt then w.link.gap else w.link.gap + 1
        slot := match w.link.slot with | .held tag lseq n => .held tag lseq (n + 1) | x => x } ∧
      (∀ n, (u.line n).config = (w.line n).config ∧ (u.line n).capture = (w.line n).capture ∧
        (u.line n).notice = (w.line n).notice) ∧
      (∀ p, (u.port p).settings = (w.port p).settings ∧ (u.port p).ready = (w.port p).ready ∧
        (u.port p).notice = (w.port p).notice ∧ (u.port p).sent = (w.port p).sent ∧
        (u.port p).gave = (w.port p).gave ∧ (u.port p).pulls = (w.port p).pulls ∧
        (u.port p).state = match (w.port p).state with
          | .settling n => .settling (n + 1)
          | .stuck n => .stuck (n + 1)
          | .running r =>
            if r.phase = .pollGap ∨ r.phase = .pauseHold ∨ r.phase = .pauseFree
            then .running { r with pauseCount := r.pauseCount + 1 } else .running r
          | x => x)

/-- A tick increment samples each available line, EV6 and EV7 on the line samples of port B (log 27), and
the lines on which an edge is then to be detected are, in line order, those whose run reaches filter + 1
samples. It samples each port's presence pin and tracker, and counts its wait for SCL where it has
released SCL: none found, begun, or going on (log 27); a port found waiting has released SCL, and does with
SDA what the bit it stands in asks, or outside a byte what it did before (log 29). A change of presence that moves the port's state
waits for the port's own act (log 26), any other is taken at its 64th sample. -/
def Obligations.TickSamplesThePins : Prop :=
  ∀ (s : State) (m : Samples), let w := s.finishTick
    let open' (n : Nat) : Prop := n < 6 ∨ w.portB.settings.mode = .off
    ∃ t, exec (.tickIncrement ⟨m, []⟩) s = .next t ∧
    (∀ n, n < w.lines.length → n < 8 → open' n →
      let high := if n < 6 then m.ev.getLsbD n else if n = 6 then m.b.lines.scl else m.b.lines.sda
      let shown : SettledLevel := if high then .high else .low
      (t.line n).sampler =
        if (w.line n).sampler.settled = .unknown
        then { (w.line n).sampler with settled := shown, runCount := 0 }
        else if (w.line n).sampler.settled = shown then { (w.line n).sampler with runCount := 0 }
        else if (w.line n).sampler.runCount = 0
        then { (w.line n).sampler with runCount := 1, runStart := s.time + 1 }
        else { (w.line n).sampler with runCount := (w.line n).sampler.runCount + 1 }) ∧
    (∀ n, ¬open' n → (t.line n).sampler = (w.line n).sampler) ∧
    t.tick.edges.Pairwise (· < ·) ∧
    (∀ n, n ∈ t.tick.edges ↔ n < 8 ∧ open' n ∧ 0 < (t.line n).sampler.runCount ∧
      (t.line n).config.filter + 1 ≤ (t.line n).sampler.runCount) ∧
    (∀ p, let x := w.port p
      let sample := match p with | .a => m.a | .b => m.b
      let mayWait : Prop := (∃ o n, x.state = .recovering o n) ∨
        ∃ r, x.state = .running r ∧ ((r.phase = .start ∧ r.held = true) ∨
          r.phase ∈ [.address, .poll, .write, .read] ∨ ∃ after, r.phase = .stop after)
      ((!sample.prs) = x.present → (t.port p).present = x.present ∧ (t.port p).presRun = 0) ∧
      ((!sample.prs) ≠ x.present → x.presRun + 1 < 64 →
        (t.port p).present = x.present ∧ (t.port p).presRun = x.presRun + 1) ∧
      ((!sample.prs) ≠ x.present → x.presRun + 1 = 64 →
        if x.settings.mode ≠ .off ∧ x.settings.presence = .require
        then (t.port p).present = x.present ∧ (t.port p).presRun = 64
        else (t.port p).present = !x.present ∧ (t.port p).presRun = 0) ∧
      (¬mayWait → (t.port p).stretch = 0) ∧
      (mayWait → (t.port p).stretch =
        match sample.wait with | .none => 0 | .begun => 1 | .goesOn => x.stretch + 1) ∧
      ((t.port p).stretch = 0 → (t.port p).drive = x.drive) ∧
      ((t.port p).stretch ≠ 0 → (t.port p).drive.scl = .released ∧
        ((∀ r, x.state = .running r → r.phase ∉ [.address, .poll, .write, .read]) →
          (t.port p).drive.sda = x.drive.sda) ∧
        ∀ r j, x.state = .running r → w.job? r.slot = some j → r.bits.length < 9 →
          (∀ b, w.Sends r j b →
            (pullsSent b)[r.bits.length]? = some (t.port p).drive.sda) ∧
          (r.phase = .read →
            (pullsGiven j.readNak)[r.bits.length]? = some (t.port p).drive.sda)) ∧
      (t.port p).tracker = x.tracker.map (fun k => match k with
        | .busy n => if sample.lines.scl && sample.lines.sda then .busy (n + 1) else .busy 0
        | .free => .free))

/-- An AT trigger makes a PENDING job of a port READY at the tail of the port's list, with the time of
the increment as trigger time and LATE more than one tick after the AT time; an EVENT trigger does the
same with the edge time, never LATE. -/
def Obligations.AtAndEventTriggersMakeTheJobReady : Prop :=
  (∀ (s : State) (tag : Tag) (slot : Nat) (rest : List Nat) (j : Job) (p : PortId) (t0 : Time),
    s.Evaluates tag slot rest j → j.state = .pending → j.trigger = .atTime t0 → j.port = some p →
    t0.toNat ≤ s.time.toNat → (∀ d, j.deadline = some d → s.time.toNat ≤ d.toNat) →
    exec (.atTrigger tag) s = .next ((({ s with
      slots := s.slots.set slot (some { j with
        state := .ready
        run := { RunRecord.cleared with
          triggerTime := s.time, late := decide (1 < s.time.toNat - t0.toNat) } }) } : State).setPort
        p { s.port p with ready := (s.port p).ready ++ [slot] }).leftToEvaluate rest)) ∧
  (∀ (s : State) (tag : Tag) (slot line count : Nat) (edge : Time) (rest : List (Nat × Time))
      (j : Job) (p : PortId),
    s.tick.evals = [] → s.tick.edges = [] → s.tick.triggers = (slot, edge) :: rest →
    s.job? slot = some j → j.tag = tag → j.state = .pending → j.trigger = .event line count →
    j.port = some p →
    exec (.eventTrigger tag) s = .next (({ s with
      slots := s.slots.set slot (some { j with
        state := .ready
        run := { RunRecord.cleared with triggerTime := edge, late := false } })
      tick := { s.tick with triggers := rest } } : State).setPort
        p { s.port p with ready := (s.port p).ready ++ [slot] }).closeEvents)

/-- A match of an EVERY job that its deadline has not ended: a PENDING job of a port whose run
reservation is granted becomes READY with the matched time as trigger time and its retries restored; a
match that finds no room, or the job READY or ACTIVE, raises missed runs, up to 255. -/
def Obligations.EveryMatchTriggersOrIsMissed : Prop :=
  ∀ (s : State) (tag : Tag) (slot : Nat) (rest : List Nat) (j : Job) (period phase : BitVec 32)
      (runs : BitVec 16),
    s.Evaluates tag slot rest j → j.trigger = .every period phase runs →
    s.time.toNat % period.toNat = phase.toNat →
    (j.state = .active ∨ ∀ d, j.deadline = some d → s.time.toNat ≤ d.toNat) →
    (∀ p, j.state = .pending → j.port = some p → 1 ≤ s.reports.room →
      exec (.everyMatch tag) s = .next ((({ s with
        slots := s.slots.set slot (some { j with
          state := .ready
          runRes := true
          retriesLeft := j.retries
          run := { RunRecord.cleared with triggerTime := s.time, late := false } })
        reports := { s.reports with reserved := s.reports.reserved + 1 } } : State).setPort
          p { s.port p with ready := (s.port p).ready ++ [slot] }).leftToEvaluate rest)) ∧
    (j.state = .ready ∨ j.state = .active ∨ (j.state = .pending ∧ s.reports.room = 0) →
      exec (.everyMatch tag) s = .next (({ s with
        slots := s.slots.set slot (some { j with missed := min (j.missed + 1) 255 }) }
          : State).leftToEvaluate rest))

/-- A marker completes at its trigger: a single-shot one, AT or EVENT, queues its LAST report through its
standing reservation and is freed; a recurring one queues a report through the run reservation it takes
at once, and stays PENDING, or, with its ending field or at its last run, is freed with LAST set and its
standing reservation given back, which lets owed notices in. All times of the report are the trigger
time: of an EVENT marker the edge time. -/
def Obligations.MarkersCompleteAtTheirTrigger : Prop :=
  ∀ (s : State) (tag : Tag) (slot : Nat) (j : Job), s.job? slot = some j → j.tag = tag →
    j.state = .pending → j.port = none → j.readTotal ≤ 48 → j.replyHeld = false →
    j.standing = true → j.runRes = false →
    let report (time : Time) (late last : Bool) : Report := .job {
      tag := j.tag, outcome := .done, late := late, last := last, long := false
      runNumber := min (j.runsDone + 1) 65535, missed := j.missed, retriesUsed := 0
      failStep := 0, failByte := 0, triggerTime := time, startTime := time, endTime := time
      marks := [], received := 0, data := [] }
    let freed (x : Report) : State := { s with
      slots := s.slots.set slot none
      reports := { s.reports.push x with reserved := s.reports.reserved - 1 } }
    (∀ (rest : List Nat), s.Evaluates tag slot rest j →
      (∀ d, j.deadline = some d → s.time.toNat ≤ d.toNat) →
      (∀ t0 : Time, j.trigger = .atTime t0 → t0.toNat ≤ s.time.toNat →
        exec (.atTrigger tag) s = .next ((freed (report s.time
          (decide (1 < s.time.toNat - t0.toNat)) true)).leftToEvaluate rest)) ∧
      (∀ (period phase : BitVec 32) (runs : BitVec 16), j.trigger = .every period phase runs →
        s.time.toNat % period.toNat = phase.toNat → 1 ≤ s.reports.room →
        let ends : Prop := j.ending = true ∨
          (runs.toNat ≠ 0 ∧ min (j.runsDone + 1) 65535 = runs.toNat)
        (¬ends → exec (.everyMatch tag) s = .next (({ s with
          slots := s.slots.set slot (some { j with
            missed := 0
            stopping := false
            runsDone := min (j.runsDone + 1) 65535
            retriesLeft := j.retries
            run := { RunRecord.cleared with
              triggerTime := s.time, startTime := s.time, endTime := s.time
              outcome := some .done } })
          reports := s.reports.push (report s.time false false) } : State).leftToEvaluate rest)) ∧
        (ends → ∃ t notices, exec (.everyMatch tag) s = .next t ∧
          t.slots = s.slots.set slot none ∧
          t.reports.queued = s.reports.queued ++ report s.time false true :: notices ∧
          (∀ x ∈ notices, x.source ≠ none) ∧ (s.reports.owed = [] → notices = []) ∧
          t.reports.reserved = s.reports.reserved - 1 ∧
          t.tick = (s.leftToEvaluate rest).tick ∧ t.time = s.time ∧ t.link = s.link ∧
          t.pool = s.pool ∧ (∀ p, (t.port p).ready = (s.port p).ready)))) ∧
    (∀ (line count : Nat) (edge : Time) (rest : List (Nat × Time)), s.tick.evals = [] →
      s.tick.edges = [] → s.tick.triggers = (slot, edge) :: rest → j.trigger = .event line count →
      exec (.eventTrigger tag) s = .next (({ freed (report edge false true) with
        tick := { s.tick with triggers := rest } } : State).closeEvents))

/-- At an increment past its deadline a PENDING or READY job whose reply is not held is ended: one
EXPIRED report with LAST set and start and end time the time of the increment, its reservations are
spent or given back, and the job is freed and off its port's list, whose other jobs keep their order.
The other jobs stand, and of ports and lines only notice states can move, where the room that comes back
lets owed notices in. -/
def Obligations.DeadlineExpiryEndsTheJob : Prop :=
  ∀ (s : State) (tag : Tag) (slot : Nat) (rest : List Nat) (j : Job) (d : Time),
    s.Evaluates tag slot rest j → j.state = .pending ∨ j.state = .ready →
    j.deadline = some d → d.toNat < s.time.toNat → j.replyHeld = false →
    j.standing = true ∨ j.runRes = true →
    ∃ t notices, exec (.deadlineExpiry tag) s = .next t ∧
      t.slots = s.slots.set slot none ∧ t.counter = s.counter ∧ t.pool = s.pool ∧
      t.tick = (s.leftToEvaluate rest).tick ∧ t.time = s.time ∧ t.link = s.link ∧
      (∀ p, t.port p = { s.port p with
        ready := if j.port = some p then (s.port p).ready.filter (· ≠ slot) else (s.port p).ready
        notice := (t.port p).notice }) ∧
      (∀ n, t.line n = { s.line n with notice := (t.line n).notice }) ∧
      t.reports.reserved = s.reports.reserved
        - ((if j.standing then 1 else 0) + (if j.runRes then 1 else 0)) ∧
      (∀ n ∈ notices, n.source ≠ none) ∧ (s.reports.owed = [] → notices = []) ∧
      t.reports.queued = s.reports.queued ++ (Report.job {
        tag := j.tag, outcome := .expired
        late := if j.state = .ready then j.run.late else false
        last := true, long := j.long, runNumber := j.runsDone, missed := j.missed, retriesUsed := 0
        failStep := 0, failByte := 0
        triggerTime := if j.state = .ready then j.run.triggerTime else 0
        startTime := s.time, endTime := s.time, marks := [], received := 0, data := [] }
        :: notices)

/-! ## The event unit -/

/-- CONFIG_LINE's six checks in order, and its effect: all four settings of the line at once and nothing
else; edge OFF is accepted on EV6 and EV7 whatever port B's mode. It acts on the state that the event
unit's act of the present increment has left (log 3). -/
def Obligations.ConfigLineReplacesTheSettings : Prop :=
  ∀ (s : State) (r : Request) (n edge mode filter en : Byte), s.Quiet →
    let u := s.finishEventUnit
    u.MayCarryOut .configLine r →
    r.payload = [n, edge, mode, filter, en] →
    (8 ≤ n.toNat → exec .configLine s = .next (u.replied r [0x11, 0, 0])) ∧
    (n.toNat < 8 →
      (4 ≤ edge.toNat → exec .configLine s = .next (u.replied r [0x11, 0, 1])) ∧
      (edge.toNat < 4 → 2 ≤ mode.toNat → exec .configLine s = .next (u.replied r [0x11, 0, 2])) ∧
      (edge.toNat < 4 → mode.toNat < 2 → 16 ≤ filter.toNat →
        exec .configLine s = .next (u.replied r [0x11, 0, 3])) ∧
      (edge.toNat < 4 → mode.toNat < 2 → filter.toNat < 16 → 2 ≤ en.toNat →
        exec .configLine s = .next (u.replied r [0x11, 0, 4])) ∧
      (∀ (e : EdgeSetting) (m : CaptureMode), e.code = edge → m.code = mode → filter.toNat < 16 →
        en.toNat < 2 →
        exec .configLine s =
          if 6 ≤ n.toNat ∧ e ≠ .off ∧ u.portB.settings.mode ≠ .off then .next (u.replied r [0x27])
          else .next (({ u with lines := u.lines.set n.toNat { u.line n.toNat with
            config := { edge := e, mode := m, filter := filter.toNat, noticeEn := en == 1 } } }
              : State).replied r [0x00])))

/-- GET_CAPTURE: a mask of 0 is refused, any other is answered with one entry for each line of the
mask, ascending, and nothing changes. It acts on the state that the event unit's act of the present
increment has left (log 3). -/
def Obligations.GetCaptureReadsTheRecords : Prop :=
  ∀ (s : State) (r : Request) (mask : Byte), s.Quiet →
    let u := s.finishEventUnit
    u.MayCarryOut .getCapture r → r.payload = [mask] →
    (mask = 0 → exec .getCapture s = .next (u.replied r [0x11, 0, 0])) ∧
    (mask ≠ 0 → exec .getCapture s = .next (u.replied r (0x00 ::
      ((List.range 8).filter (fun n => mask.getLsbD n)).flatMap (fun n =>
        let l := u.line n
        [BitVec.ofNat 8 n, l.config.edge.code, l.config.mode.code, BitVec.ofNat 8 l.config.filter,
         if l.config.noticeEn then 1 else 0,
         if n < 6 ∨ u.portB.settings.mode = .off then 1 else 0,
         l.sampler.settled.code, if l.capture.held then 1 else 0, l.capture.polarity.code,
         BitVec.ofNat 8 l.capture.count] ++ timeBytes l.capture.time ++ [l.notice.code]))))

/-- CLEAR_CAPTURE: a line above 7 is refused; a matching count clears the record and drops an owed
notice, leaving a queued one; another count is answered STALE and changes nothing. -/
def Obligations.ClearCaptureMatchesTheCount : Prop :=
  ∀ (s : State) (r : Request) (n seen : Byte), s.MayCarryOut .clearCapture r → s.lines.length = 8 →
    r.payload = [n, seen] →
    (8 ≤ n.toNat → exec .clearCapture s = .next (s.replied r [0x11, 0, 0])) ∧
    (n.toNat < 8 → seen.toNat = (s.line n.toNat).capture.count →
      exec .clearCapture s = .next (({ s with
        lines := s.lines.set n.toNat { s.line n.toNat with
          capture := { held := false, time := 0, polarity := .rising, count := 0 }
          notice := if (s.line n.toNat).notice = .owed then .none else (s.line n.toNat).notice }
        reports := if (s.line n.toNat).notice = .owed
          then { s.reports with owed := s.reports.owed.filter (· ≠ .line n.toNat) }
          else s.reports } : State).replied r [0x00, n, seen])) ∧
    (n.toNat < 8 → seen.toNat ≠ (s.line n.toNat).capture.count →
      exec .clearCapture s = .next (s.replied r
        [0x34, n, BitVec.ofNat 8 (s.line n.toNat).capture.count]))

/-- A detected edge moves the settled level and drops the run. Passed over by the edge setting, it does
nothing else and asks for no notice. Taken, it updates the line's capture record by the capture mode and
counts for every PENDING EVENT job on the line and for no other job; a job whose countdown it brings to 0
is to be triggered with the edge time, which is the start of the run, in its place by admission; and the
line takes its place among those to ask for a notice, which stay in line order. When no edge of the
increment and no trigger is left, the act of the event unit closes: the lines ask, in that order. -/
def Obligations.DetectedEdgeMovesLineRecordAndCountdowns : Prop :=
  (∀ s : State, s.closeEvents = if s.tick.edges = [] ∧ s.tick.triggers = [] then
      let t := s.tick.asks.foldl (fun u n => u.askNotice (.line n)) s
      { t with tick := { t.tick with asks := [], edging := false } }
    else s) ∧
  ∀ (s : State) (n : Nat) (rest : List Nat), n < s.lines.length → s.tick.evals = [] →
    s.tick.edges = n :: rest →
    let l := s.line n
    let pol : Polarity := if l.sampler.settled = .low then .rising else .falling
    let settled : SettledLevel := if l.sampler.settled = .low then .high else .low
    let taken : Prop := l.config.edge = .both ∨ (l.config.edge = .rising ∧ pol = .rising) ∨
      (l.config.edge = .falling ∧ pol = .falling)
    let counts (j : Job) : Prop := j.state = .pending ∧ ∃ count, j.trigger = .event n count
    let below (slot : Nat) : Nat := match s.job? slot with
      | some j => (s.counter - j.admission).toNat
      | none => 0
    let older (x y : Nat × Time) : Prop := below y.1 ≤ below x.1
    ∃ u : State, exec (.edgeDetected n) s = .next u.closeEvents ∧
      u.reports = s.reports ∧ (∀ p, u.port p = s.port p) ∧ u.time = s.time ∧ u.pool = s.pool ∧
      u.link = s.link ∧ u.counter = s.counter ∧
      u.tick.evals = [] ∧ u.tick.edges = rest ∧ u.tick.edging = true ∧
      (u.line n).sampler = { l.sampler with settled := settled, runCount := 0 } ∧
      (u.line n).config = l.config ∧ (u.line n).notice = l.notice ∧
      (∀ i, i ≠ n → u.line i = s.line i) ∧
      ((s.tick.asks ++ n :: rest).Pairwise (· < ·) → (u.tick.asks ++ rest).Pairwise (· < ·)) ∧
      (¬taken → (u.line n).capture = l.capture ∧ u.slots = s.slots ∧
        u.tick.triggers = s.tick.triggers ∧ u.tick.asks = s.tick.asks) ∧
      (taken →
        (u.line n).capture =
          { held := true
            count := min (l.capture.count + 1) 255
            time := if l.config.mode = .first ∧ l.capture.held = true then l.capture.time
              else l.sampler.runStart
            polarity := if l.config.mode = .first ∧ l.capture.held = true then l.capture.polarity
              else pol } ∧
        (∀ i j, s.job? i = some j → counts j →
          u.job? i = some { j with countdown := j.countdown - 1 }) ∧
        (∀ i j, s.job? i = some j → ¬counts j → u.job? i = some j) ∧
        (∀ i, s.job? i = none → u.job? i = none) ∧
        (∀ x, x ∈ u.tick.triggers ↔ x ∈ s.tick.triggers ∨
          (x.2 = l.sampler.runStart ∧ ∃ j, s.job? x.1 = some j ∧ counts j ∧ j.countdown ≤ 1)) ∧
        (s.tick.triggers.Pairwise older → u.tick.triggers.Pairwise older) ∧
        u.tick.asks = s.tick.asks ++ [n])

/-! ## The report queue -/

/-- A source asks for a notice only with its enable on and its notice state none; it is queued with the
content of this event where there is room and else owed at the tail. The drain at a return of room
queues the owed sources in the order in which they became owed, each with its present content, until the
list is empty or the room is 0, and the notice states of those sources become queued. A give-back returns
one place and drains. Nothing but notice states and the queue moves. ATTN is
asserted in LEVEL mode exactly while a report of an enabled kind is queued, and in PULSE mode while a
pulse is in progress, which each queuing of a report of an enabled kind starts from 0. -/
def Obligations.NoticesAreQueuedOrOwedAndDrainedInOrder : Prop :=
  (∀ (s : State) (n : Nat), n < s.lines.length → let t := s.askNotice (.line n)
    NoticeAsked (.line n)
      (.event n (s.line n).capture.polarity (s.line n).capture.count (s.line n).capture.time s.time)
      (s.line n).config.noticeEn s.reports (s.line n).notice t.reports (t.line n).notice ∧
    t = { s with reports := t.reports
                 lines := s.lines.set n { s.line n with notice := (t.line n).notice } }) ∧
  (∀ (s : State) (p : PortId), let t := s.askNotice (.port p)
    NoticeAsked (.port p) (.port p (s.port p).state.reported s.time)
      (s.port p).settings.noticeEn s.reports (s.port p).notice t.reports (t.port p).notice ∧
    t = ({ s with reports := t.reports } : State).setPort p
      { s.port p with notice := (t.port p).notice }) ∧
  (∀ s : State,
    let k := min s.reports.owed.length s.reports.room
    let drained := s.reports.owed.take k
    let content (src : Source) : Report := match src with
      | .line n => .event n (s.line n).capture.polarity (s.line n).capture.count
          (s.line n).capture.time s.time
      | .port p => .port p (s.port p).state.reported s.time
    let t := s.drain
    t.reports = { (drained.map content).foldl ReportQueue.push s.reports with
      owed := s.reports.owed.drop k } ∧
    t.reports.queued = s.reports.queued ++ drained.map content ∧
    t.lines.length = s.lines.length ∧
    (∀ n, n < s.lines.length → t.line n = { s.line n with
      notice := if Source.line n ∈ drained then .queued else (s.line n).notice }) ∧
    (∀ p, t.port p = { s.port p with
      notice := if Source.port p ∈ drained then .queued else (s.port p).notice }) ∧
    t = { s with reports := t.reports, lines := t.lines, portA := t.portA, portB := t.portB }) ∧
  (∀ s : State, s.giveBack =
    ({ s with reports := { s.reports with reserved := s.reports.reserved - 1 } } : State).drain) ∧
  (∀ q : ReportQueue,
    let enabled (r : Report) : Prop := match r with
      | .job _ => q.enables.job = true
      | .event _ _ _ _ _ => q.enables.event = true
      | .port _ _ _ => q.enables.port = true
    (q.attnMode = .level → (q.attn = true ↔ ∃ r ∈ q.queued, enabled r)) ∧
    (q.attnMode = .pulse → (q.attn = true ↔ ∃ n, q.pulse = some n)) ∧
    (∀ r, q.attnMode = .pulse → enabled r →
      q.push r = { q with queued := q.queued ++ [r], pulse := some 0 }) ∧
    (∀ r, q.attnMode = .level ∨ ¬enabled r → q.push r = { q with queued := q.queued ++ [r] }))

/-- READ_REPORTS: a max of 0 or above 3 is refused; otherwise the k oldest reports leave, in order of
removal the notice states of the removed notices become none, the owed list is drained, and in order of
removal each removed notice is compared with its source: a line whose record has a count that is not 0
and differs, and a port whose reported state differs, asks for a notice again. The reply carries k, the
number queued at the end of the event and the records of the removed reports, oldest first. No job,
reservation or time moves, and what stays queued keeps its order ahead of the notices the event queues.
The bytes of a JOB, an EVENT and a PORT record are those of their tables, fields of several bytes with
the most significant first. -/
def Obligations.ReadReportsRemovesTheOldest : Prop :=
  let state (x : ShownState) : Byte := match x with
    | .off => 0 | .detached => 1 | .settling => 2 | .idle => 3 | .running => 4 | .recovering => 5
    | .stuck => 6
  let outcome (x : JobOutcome) : Byte := match x with
    | .done => 0 | .absent => 1 | .refused => 2 | .pollLimit => 3 | .arbLost => 4
    | .arbLostPartial => 5 | .stalled => 6 | .detached => 7 | .cancelled => 8 | .expired => 9
    | .portClosed => 10
  let mark (j : JobReport) (i : Nat) : Nat := match j.marks[i]? with
    | some time => time.toNat
    | none => 0
  let record (x : Report) : List Byte := match x with
    | .job j => [0x01] ++ bytesBE 2 j.tag.toNat ++ [outcome j.outcome,
        (if j.late then 0x01 else 0x00) + (if j.last then 0x02 else 0x00)
          + (if j.long then 0x04 else 0x00)]
        ++ bytesBE 2 j.runNumber ++ [BitVec.ofNat 8 j.missed, BitVec.ofNat 8 j.retriesUsed,
          BitVec.ofNat 8 j.failStep, BitVec.ofNat 8 j.failByte]
        ++ bytesBE 6 j.triggerTime.toNat ++ bytesBE 6 j.startTime.toNat ++ bytesBE 6 j.endTime.toNat
        ++ [BitVec.ofNat 8 j.marks.length] ++ bytesBE 6 (mark j 0) ++ bytesBE 6 (mark j 1)
        ++ bytesBE 2 j.received ++ [BitVec.ofNat 8 j.data.length] ++ j.data
    | .event n polarity count edge notice => [0x02, BitVec.ofNat 8 n,
        match polarity with | .rising => 0 | .falling => 1, BitVec.ofNat 8 count]
        ++ bytesBE 6 edge.toNat ++ bytesBE 6 notice.toNat
    | .port p shown notice => [0x03, match p with | .a => 1 | .b => 2, state shown]
        ++ bytesBE 6 notice.toNat
  (∀ k n, (bytesBE k n).length = k ∧
    ∀ i, i < k → (bytesBE k n).getD i 0 = BitVec.ofNat 8 (n / 256 ^ (k - 1 - i))) ∧
  (∀ x : Report, x.bytes = record x) ∧ (∀ j : JobReport, j.bytes = record (.job j)) ∧
  ∀ (s : State) (r : Request) (max : Byte), s.MayCarryOut .readReports r → r.payload = [max] →
    (max = 0 ∨ 4 ≤ max.toNat → exec .readReports s = .next (s.replied r [0x11, 0, 0])) ∧
    (max ≠ 0 → max.toNat < 4 →
      let removed := s.reports.queued.take max.toNat
      let left : State := { s with
        reports := { s.reports with queued := s.reports.queued.drop max.toNat } }
      let delivered := removed.foldl (fun u x => match x.source with
        | some src => u.setNotice src .none
        | none => u) left
      let t := removed.foldl (fun u x => match x with
        | .job _ => u
        | .event n _ count _ _ =>
          if (u.line n).capture.count ≠ 0 ∧ (u.line n).capture.count ≠ count
          then u.askNotice (.line n) else u
        | .port p shown _ =>
          if (u.port p).state.reported ≠ shown then u.askNotice (.port p) else u) delivered.drain
      exec .readReports s = .next (t.replied r ([0x00, BitVec.ofNat 8 removed.length,
        BitVec.ofNat 8 t.reports.queued.length] ++ removed.flatMap record)) ∧
      ∃ notices, t.reports.queued = s.reports.queued.drop max.toNat ++ notices ∧
        (∀ x ∈ notices, x.source ≠ none) ∧
        t.reports.reserved = s.reports.reserved ∧ t.slots = s.slots ∧ t.time = s.time ∧
        t.link = s.link ∧
        (s.reports.owed = [] → (∀ x ∈ removed, x.source = none) →
          notices = [] ∧ t.reports.owed = [] ∧ t.lines = s.lines ∧ t.portA = s.portA ∧
            t.portB = s.portB))

/-! ## The job table -/

/-- SUBMIT's checks 1 to 4 in order: the payload size against step count and write data, the
descriptor's fields at their offsets, a pad byte of the trigger arguments at its own, the step list, and
the checks that need several fields. Each failing SUBMIT is answered and changes nothing else. -/
def Obligations.SubmitChecksItsPayloadInOrder : Prop :=
  ∀ (s : State) (r : Request), s.MayCarryOut .submit r → 23 ≤ r.payload.length →
    let p := r.payload
    let n := (byteAt p 22).toNat
    let writes := ((rawSteps p n).map (fun x => if x.kind = 3 then x.arg2 else 0)).sum
    let code (x : Reason) : Byte := match x with
      | .order => 1 | .direction => 2 | .address => 3 | .lengthSum => 4 | .marks => 5 | .range => 6
      | .count => 7
    let refused (payload : List Byte) : Prop := exec .submit s = .next (s.replied r payload)
    let pad (a b : Nat) : Prop := ∀ k, a ≤ k → k < b → byteAt p k = 0
    let badPad (a b : Nat) : Prop := ∀ k, a ≤ k → k < b → pad a k → byteAt p k ≠ 0 →
      refused [0x11, 0, BitVec.ofNat 8 k]
    let triggerFits : Prop :=
      (byteAt p 3 = 0 ∧ pad 4 14) ∨ (byteAt p 3 = 1 ∧ pad 10 14) ∨
      (byteAt p 3 = 2 ∧ 64 ≤ fieldAt p 4 4 ∧ fieldAt p 8 4 < fieldAt p 4 4) ∨
      (byteAt p 3 = 3 ∧ (byteAt p 4).toNat < 8 ∧ byteAt p 5 ≠ 0 ∧ pad 6 14)
    (p.length < 23 + 4 * n ∨ p.length ≠ 23 + 4 * n + writes → refused [0x10]) ∧
    (p.length = 23 + 4 * n + writes →
      (tagAt p = 0 → refused [0x11, 0, 0]) ∧
      (tagAt p ≠ 0 → 2 < (byteAt p 2).toNat → refused [0x11, 0, 2]) ∧
      (tagAt p ≠ 0 → (byteAt p 2).toNat ≤ 2 →
        (3 < (byteAt p 3).toNat → refused [0x11, 0, 3]) ∧
        (byteAt p 3 = 0 → badPad 4 14) ∧
        (byteAt p 3 = 1 → badPad 10 14) ∧
        (byteAt p 3 = 2 → fieldAt p 4 4 < 64 → refused [0x11, 0, 4]) ∧
        (byteAt p 3 = 2 → 64 ≤ fieldAt p 4 4 → fieldAt p 4 4 ≤ fieldAt p 8 4 →
          refused [0x11, 0, 8]) ∧
        (byteAt p 3 = 3 → 8 ≤ (byteAt p 4).toNat → refused [0x11, 0, 4]) ∧
        (byteAt p 3 = 3 → (byteAt p 4).toNat < 8 → byteAt p 5 = 0 → refused [0x11, 0, 5]) ∧
        (byteAt p 3 = 3 → (byteAt p 4).toNat < 8 → byteAt p 5 ≠ 0 → badPad 6 14) ∧
        (triggerFits →
          (3 < (byteAt p 14).toNat → refused [0x11, 0, 14]) ∧
          ((byteAt p 14).toNat ≤ 3 → 7 < (byteAt p 15).toNat → refused [0x11, 0, 15]) ∧
          ((byteAt p 14).toNat ≤ 3 → (byteAt p 15).toNat ≤ 7 →
            (∀ i reason, checkSteps (rawSteps p n) = .error (i, reason) →
              refused [0x12, BitVec.ofNat 8 i, code reason]) ∧
            (∀ steps w, checkSteps (rawSteps p n) = .ok (steps, w) →
              ((byteAt p 2 = 0 ∧ steps ≠ [] ∨ byteAt p 2 ≠ 0 ∧ steps = []) →
                refused [0x12, 0, 7]) ∧
              ((byteAt p 2 = 0 ↔ steps = []) → (byteAt p 14).getLsbD 1 = true →
                (byteAt p 3 ≠ 0 ∨ byteAt p 2 = 0) → refused [0x11, 0, 14]) ∧
              ((byteAt p 2 = 0 ↔ steps = []) → (byteAt p 14).getLsbD 1 = false →
                byteAt p 3 = 2 → 48 < w.readSum → refused [0x11, 0, 3]))))))

/-- The step check: a list of more than 16 steps is refused COUNT at index 16; else the first step that
fails a test is refused at its index, by its argument test (the target before the rest), the place test,
ORDER for a step 0 that is neither ADDRESS nor POLL, and the count tests, in this order; a list that
ends on an unread ADDRESS for reading is refused ORDER at its last step, and any other is accepted. The
place test of a step alone, and where a step's bytes lie. What a list that admission accepts is like: at
most 16 steps, the first an ADDRESS or POLL, every argument in its range, every WRITE and READ in an
open transfer of its direction, every PAUSE HOLD in an open transfer, every ADDRESS for reading followed
by a READ before its transfer closes, at most two MARKs, write length at most 192 and read total at most
256, which are the sums that the walk keeps. What a submission that passes checks 1 to 4 is like: the
fields of its payload, no steps exactly with port NONE, a held reply only for a NOW job of a port, and a
read total of at most 48 where it is recurring. -/
def Obligations.AcceptedStepListsAreWellFormed : Prop :=
  (∀ raws : List RawStep,
    let argument (x : RawStep) : Option Reason :=
      let target : Option Reason :=
        if x.arg1.toNat < 0x08 ∨ 0x77 < x.arg1.toNat then some .address else none
      let within (fits : Bool) : Option Reason := if fits then none else some .range
      match x.kind.toNat with
      | 1 => target.or (within (x.arg2 ≤ 1))
      | 2 => target.or (within (x.arg2 / 256 ≠ 0 ∧ x.arg2 % 256 ≠ 0))
      | 3 => within (x.arg1 = 0 ∧ 1 ≤ x.arg2 ∧ x.arg2 ≤ 192)
      | 4 => within (x.arg1 = 0 ∧ 1 ≤ x.arg2 ∧ x.arg2 ≤ 256)
      | 5 => within (x.arg1 = 0 ∧ x.arg2 = 0)
      | 6 => within (x.arg1.toNat ≤ 1 ∧ 1 ≤ x.arg2)
      | 7 => within (x.arg1 = 0 ∧ x.arg2 = 0)
      | _ => some .range
    let becomes (t : Transfer) (x : RawStep) : Transfer := match x.kind.toNat with
      | 1 => if x.arg2 = 0 then .writeOpen else .readOpenEmpty
      | 2 => .writeOpen
      | 4 => .readOpenUsed
      | 5 => .closed
      | 6 => if x.arg1 = 1 then .closed else t
      | _ => t
    let before (i : Nat) : Transfer := (raws.take i).foldl becomes .closed
    let place (i : Nat) (x : RawStep) : Option Reason := match x.kind.toNat, before i with
      | 1, .readOpenEmpty => some .order
      | 2, .readOpenEmpty => some .order
      | 5, .readOpenEmpty => some .order
      | 6, .readOpenEmpty => if x.arg1 = 1 then some .order else none
      | 6, .closed => if x.arg1 = 0 then some .order else none
      | 3, .closed => some .order
      | 3, .readOpenEmpty => some .direction
      | 3, .readOpenUsed => some .direction
      | 4, .closed => some .order
      | 4, .writeOpen => some .direction
      | _, _ => none
    let total (kind : Byte) (i : Nat) : Nat :=
      ((raws.take i).map (fun x => if x.kind = kind then x.arg2 else 0)).sum
    let marks (i : Nat) : Nat := (raws.take i).countP (fun x => x.kind == 7)
    let counted (i : Nat) (x : RawStep) : Option Reason := match x.kind.toNat with
      | 3 => if 192 < total 3 (i + 1) then some .lengthSum else none
      | 4 => if 256 < total 4 (i + 1) then some .lengthSum else none
      | 7 => if 3 ≤ marks (i + 1) then some .marks else none
      | _ => none
    let fails (i : Nat) (x : RawStep) : Option Reason :=
      (argument x).or (if i = 0 ∧ x.kind ≠ 1 ∧ x.kind ≠ 2 then some .order
        else (place i x).or (counted i x))
    let step (x : RawStep) : Machine.Step := match x.kind.toNat with
      | 1 => .address (BitVec.ofNat 7 x.arg1.toNat) (if x.arg2 = 0 then .w else .r)
      | 2 => .poll (BitVec.ofNat 7 x.arg1.toNat) (x.arg2 / 256) (x.arg2 % 256)
      | 3 => .write x.arg2
      | 4 => .read x.arg2
      | 5 => .stop
      | 6 => .pause (if x.arg1 = 0 then .hold else .free) x.arg2
      | _ => .mark
    let n := raws.length
    (16 < n → checkSteps raws = .error (16, .count)) ∧
    (n ≤ 16 →
      (∀ i x reason, raws[i]? = some x → fails i x = some reason →
        (∀ k y, k < i → raws[k]? = some y → fails k y = none) →
        checkSteps raws = .error (i, reason)) ∧
      ((∀ k y, raws[k]? = some y → fails k y = none) →
        (before n = .readOpenEmpty → checkSteps raws = .error (n - 1, .order)) ∧
        (before n ≠ .readOpenEmpty → checkSteps raws = .ok (raws.map step,
          { transfer := before n, marks := marks n, writeSum := total 3 n, readSum := total 4 n }))))) ∧
  (∀ (p : List Byte) (n : Nat), 23 + 4 * n ≤ p.length → rawSteps p n = (List.range n).map (fun i =>
    { kind := byteAt p (23 + 4 * i), arg1 := byteAt p (24 + 4 * i)
      arg2 := (byteAt p (25 + 4 * i)).toNat * 256 + (byteAt p (26 + 4 * i)).toNat })) ∧
  (∀ (target : BitVec 7) (n limit gap ticks : Nat) (t : Transfer),
    let closes (st : Machine.Step) (after : Transfer) : Prop :=
      st.place .readOpenEmpty = .error .order ∧
        (t ≠ .readOpenEmpty → st.place t = .ok after)
    closes (.address target .w) .writeOpen ∧ closes (.address target .r) .readOpenEmpty ∧
    closes (.poll target limit gap) .writeOpen ∧ closes .stop .closed ∧
    closes (.pause .free ticks) .closed ∧
    (Machine.Step.write n).place t = (match t with
      | .closed => .error .order | .writeOpen => .ok .writeOpen | _ => .error .direction) ∧
    (Machine.Step.read n).place t = (match t with
      | .closed => .error .order | .writeOpen => .error .direction | _ => .ok .readOpenUsed) ∧
    (Machine.Step.pause .hold ticks).place t = (match t with
      | .closed => .error .order | x => .ok x) ∧
    Machine.Step.mark.place t = .ok t) ∧
  (∀ (raws : List RawStep) (steps : List Machine.Step) (w : Walk),
    (∀ x ∈ raws, x.arg2 < 65536) → checkSteps raws = .ok (steps, w) →
    let opened (o : Option Direction) (st : Machine.Step) : Option Direction := match st with
      | .address _ dir => some dir
      | .poll _ _ _ => some .w
      | .stop => none
      | .pause .free _ => none
      | _ => o
    let openIn (i : Nat) : Option Direction := (steps.take i).foldl opened none
    steps.length = raws.length ∧ steps.length ≤ 16 ∧
    (∀ st, steps.head? = some st → st.opens = true) ∧
    (∀ st ∈ steps, match st with
      | .address target _ => 0x08 ≤ target.toNat ∧ target.toNat ≤ 0x77
      | .poll target limit gap => 0x08 ≤ target.toNat ∧ target.toNat ≤ 0x77 ∧
          1 ≤ limit ∧ limit ≤ 255 ∧ 1 ≤ gap ∧ gap ≤ 255
      | .write count => 1 ≤ count ∧ count ≤ 192
      | .read count => 1 ≤ count ∧ count ≤ 256
      | .stop => True
      | .pause _ ticks => 1 ≤ ticks ∧ ticks ≤ 65535
      | .mark => True) ∧
    (∀ (i count : Nat), steps[i]? = some (.write count) → openIn i = some .w) ∧
    (∀ (i count : Nat), steps[i]? = some (.read count) → openIn i = some .r) ∧
    (∀ (i ticks : Nat), steps[i]? = some (.pause .hold ticks) → openIn i ≠ none) ∧
    (∀ (i : Nat) (target : BitVec 7), steps[i]? = some (.address target .r) →
      ∃ k count : Nat, i < k ∧ steps[k]? = some (.read count) ∧
        ∀ l : Nat, i < l → l < k →
          steps[l]? = some .mark ∨ ∃ ticks : Nat, steps[l]? = some (.pause .hold ticks)) ∧
    steps.countP (fun st => st == .mark) ≤ 2 ∧
    w.writeSum = (steps.map (fun st => match st with | .write count => count | _ => 0)).sum ∧
    w.readSum = (steps.map (fun st => match st with | .read count => count | _ => 0)).sum ∧
    w.writeSum ≤ 192 ∧ w.readSum ≤ 256) ∧
  (∀ (p : List Byte) (x : Submission), parseSubmit p = .ok x →
    x.tag = tagAt p ∧ x.tag ≠ 0 ∧ x.retries = (byteAt p 15).toNat ∧ x.retries ≤ 7 ∧
    x.unbreakable = (byteAt p 14).getLsbD 0 ∧ x.holdReply = (byteAt p 14).getLsbD 1 ∧
    (byteAt p 2 = 0 ∧ x.port = none ∨ byteAt p 2 = 1 ∧ x.port = some .a ∨
      byteAt p 2 = 2 ∧ x.port = some .b) ∧
    (byteAt p 3 = 0 ∧ x.trigger = .now ∨
      byteAt p 3 = 1 ∧ x.trigger = .atTime (BitVec.ofNat 48 (fieldAt p 4 6)) ∨
      byteAt p 3 = 2 ∧ x.trigger = .every (BitVec.ofNat 32 (fieldAt p 4 4))
        (BitVec.ofNat 32 (fieldAt p 8 4)) (BitVec.ofNat 16 (fieldAt p 12 2)) ∨
      byteAt p 3 = 3 ∧ x.trigger = .event (byteAt p 4).toNat (byteAt p 5).toNat) ∧
    x.deadline = (if fieldAt p 16 6 = 2 ^ 48 - 1 then none
      else some (BitVec.ofNat 48 (fieldAt p 16 6))) ∧
    x.data = p.drop (23 + 4 * (byteAt p 22).toNat) ∧ x.data.length = x.writeLen ∧
    (∃ w, checkSteps (rawSteps p (byteAt p 22).toNat) = .ok (x.steps, w) ∧
      x.writeLen = w.writeSum ∧ x.readTotal = w.readSum) ∧
    (x.port = none ↔ x.steps = []) ∧
    (x.holdReply = true → x.trigger = .now ∧ x.port ≠ none) ∧
    (∀ period phase runs, x.trigger = .every period phase runs →
      64 ≤ period.toNat ∧ phase.toNat < period.toNat ∧ x.readTotal ≤ 48) ∧
    (∀ line count, x.trigger = .event line count → line < 8 ∧ 1 ≤ count ∧ count ≤ 255) ∧
    x.writeLen ≤ 192 ∧ x.readTotal ≤ 256)

/-- SUBMIT's checks 5 to 10 in order, against the state of the part: tag in use, port OFF, deadline not
after the time, no free slot, too few free blocks, no room in the report queue. Each failing SUBMIT is
answered with its status alone and changes nothing else. -/
def Obligations.SubmitIsRefusedForWantOfResources : Prop :=
  ∀ (s : State) (r : Request) (x : Submission), s.MayCarryOut .submit r →
    parseSubmit r.payload = .ok x →
    let tagInUse := ∃ i j, s.job? i = some j ∧ j.tag = x.tag
    let portOff := ∃ p, x.port = some p ∧ (s.port p).settings.mode = .off
    let past := ∃ d, x.deadline = some d ∧ d.toNat ≤ s.time.toNat
    let noSlot := none ∉ s.slots
    let noBlocks := s.freeBlocks.length < (x.writeLen + x.readTotal + 31) / 32
    let noRoom := s.reports.room = 0
    let refused (status : Byte) : Prop := exec .submit s = .next (s.replied r [status])
    (tagInUse → refused 0x20) ∧
    (¬tagInUse → portOff → refused 0x25) ∧
    (¬tagInUse → ¬portOff → past → refused 0x24) ∧
    (¬tagInUse → ¬portOff → ¬past → noSlot → refused 0x21) ∧
    (¬tagInUse → ¬portOff → ¬past → ¬noSlot → noBlocks → refused 0x22) ∧
    (¬tagInUse → ¬portOff → ¬past → ¬noSlot → ¬noBlocks → noRoom → refused 0x23)

/-- An accepted SUBMIT: the job takes the lowest free slot, the counter's admission number, the
lowest-numbered free blocks with its write data, and a standing reservation. A NOW job of a port is
READY at the tail of the port's list, triggered at the time of admission, a NOW marker completes there,
and every other job is PENDING. The reply goes to the transmit queue, or the held-reply slot is HELD
with hold count 0. -/
def Obligations.SubmitAcceptedTakesItsResources : Prop :=
  ∀ (s : State) (r : Request) (x : Submission), s.MayCarryOut .submit r →
    parseSubmit r.payload = .ok x → s.admissionRefusal x = none →
    let slot := s.slots.findIdx Option.isNone
    let blocks := s.freeBlocks.take ((x.writeLen + x.readTotal + 31) / 32)
    let now := x.trigger = .now
    let j (st : JobState) (run : RunRecord) : Job := {
      tag := x.tag, admission := s.counter, port := x.port, trigger := x.trigger
      deadline := x.deadline, retries := x.retries, retriesLeft := x.retries
      unbreakable := x.unbreakable, holdReply := x.holdReply, replyHeld := x.holdReply
      steps := x.steps, writeLen := x.writeLen, readTotal := x.readTotal, blocks := blocks
      state := st, ending := false, stopping := false
      countdown := match x.trigger with | .event _ count => count | _ => 0
      runsDone := 0, missed := 0, standing := true, runRes := false, run := run }
    let placed (o : Option Job) (q : ReportQueue) : State :=
      { s with slots := s.slots.set slot o, counter := s.counter + 1
               pool := writeBytes blocks 0 x.data s.pool, reports := q }
    let reserved : ReportQueue := { s.reports with reserved := s.reports.reserved + 1 }
    let answered (u : State) : State :=
      if x.holdReply = true
      then { u with link := { u.link with inHand := none, slot := .held x.tag r.lseq 0 } }
      else u.replied r (0x00 :: (tagBytes x.tag ++ bytesBE 4 s.counter.toNat ++ timeBytes s.time))
    (¬now → exec .submit s
      = .next (answered (placed (some (j .pending RunRecord.cleared)) reserved))) ∧
    (∀ p, now → x.port = some p → exec .submit s = .next (answered
      ((placed (some (j .ready { RunRecord.cleared with triggerTime := s.time })) reserved).setPort p
        { s.port p with ready := (s.port p).ready ++ [slot] }))) ∧
    (now → x.port = none → exec .submit s = .next (answered (placed none (s.reports.push (.job {
      tag := x.tag, outcome := .done, late := false, last := true, long := false, runNumber := 1
      missed := 0, retriesUsed := 0, failStep := 0, failByte := 0, triggerTime := s.time
      startTime := s.time, endTime := s.time, marks := [], received := 0, data := [] })))))

/-- The write data of an accepted SUBMIT stands in the job's blocks, byte k at job offset k, which is
byte k mod 32 of its block k / 32; every other byte of the pool reads as before, and with it the data
of every other live job. -/
def Obligations.SubmitStoresTheWriteData : Prop :=
  ∀ (s : State) (r : Request) (x : Submission), s.MayCarryOut .submit r →
    s.PoolLaw → parseSubmit r.payload = .ok x → s.admissionRefusal x = none →
    let blocks := s.freeBlocks.take ((x.writeLen + x.readTotal + 31) / 32)
    let addr (k : Nat) : Nat := 32 * blocks.getD (k / 32) 0 + k % 32
    ∃ t, exec .submit s = .next t ∧
      (∀ k, k < x.data.length → Memory.read t.pool (addr k) = x.data.getD k 0) ∧
      (∀ a, (∀ k, k < x.data.length → a ≠ addr k) → Memory.read t.pool a = Memory.read s.pool a) ∧
      (∀ i j k, s.job? i = some j → k < 32 * j.blocks.length →
        Memory.read t.pool (poolAddr j.blocks k) = Memory.read s.pool (poolAddr j.blocks k))

/-- CANCEL by the state it finds. A tag of no live job, a DONE job and an unbreakable single-shot run
are answered and stand; an unbreakable recurring run gets its ending field; a PENDING or READY job is
freed without a report, and where its reply is held the CANCELLED report follows the CANCEL reply as
the held reply. -/
def Obligations.CancelAnswersByState : Prop :=
  ∀ (s : State) (r : Request) (u : Bool), s.MayTake .cancel r → r.payload.length = 2 → s.TableLaw →
    let tag := tagAt r.payload
    let reply (status : Byte) : State := s.replied r (status :: tagBytes tag)
    s.link.slot = .empty ∨ (∃ lseq n, s.link.slot = .held tag lseq n) →
    ((∀ i j, s.job? i = some j → j.tag ≠ tag) → exec (.cancel u) s = .next (reply 0x30)) ∧
    (∀ slot j, s.job? slot = some j → j.tag = tag →
      (j.state = .done → exec (.cancel u) s = .next (reply 0x32)) ∧
      (j.state = .active → j.unbreakable = true → j.recurring = false →
        exec (.cancel u) s = .next (reply 0x33)) ∧
      (j.state = .active → j.unbreakable = true → j.recurring = true →
        exec (.cancel u) s = .next { reply 0x03 with
          slots := s.slots.set slot (some { j with ending := true }) }) ∧
      (j.state = .pending ∨ j.state = .ready →
        ∃ t notices, exec (.cancel u) s = .next t ∧
          t.job? slot = none ∧ (∀ i, i ≠ slot → t.job? i = s.job? i) ∧
          (∀ p, j.port = some p → (t.port p).ready = (s.port p).ready.filter (· ≠ slot)) ∧
          t.reports.queued = s.reports.queued ++ notices ∧ (∀ x ∈ notices, x.source ≠ none) ∧
          t.reports.reserved = s.reports.reserved - j.reservations ∧
          t.time = s.time ∧ t.pool = s.pool ∧
          (j.replyHeld = false → t.link = (reply 0x01).link) ∧
          (∀ lseq n, j.replyHeld = true → s.link.slot = .held tag lseq n →
            let held : Reply := ⟨0xC0, lseq, 0x00 :: JobReport.bytes {
              tag := j.tag, outcome := .cancelled
              late := if j.state = .ready then j.run.late else false
              last := true, long := j.long, runNumber := j.runsDone, missed := j.missed
              retriesUsed := 0, failStep := 0, failByte := 0
              triggerTime := if j.state = .ready then j.run.triggerTime else 0
              startTime := s.time, endTime := s.time, marks := [], received := 0, data := [] }⟩
            t.link = if s.link.tx.length < 3 ∧ s.link.resetPending = false
              then { (reply 0x01).link with tx := (reply 0x01).link.tx ++ [held], slot := .empty }
              else { (reply 0x01).link with slot := .waitingRoom held })))

/-- CANCEL of an ACTIVE breakable job answers STOPPING and sets the stopping field, and the ending
field of a recurring job. The port acts at once where its stop point is here: in a PAUSE HOLD with the
bus held it goes to its STOP, at whose beginning both lines are shown low (log 29: DESIGN CHOICE,
DEDUCED), and between transfers (a POLL gap, a PAUSE FREE, a START not under way) the
run ends CANCELLED, both at the current position. A START is under way where the command says so and no
tracker is BUSY (log 8: DEDUCED). Before the run start the field is only set, and acted on at the run
start (log 21: DEDUCED). Elsewhere on the wire, and where the field was set before, nothing else
happens. -/
def Obligations.CancelStopsABreakableRun : Prop :=
  ∀ (s : State) (r : Request) (u : Bool) (slot : Nat) (j : Job) (p : PortId) (run : Run),
    s.MayTake .cancel r → r.payload.length = 2 → s.TableLaw →
    s.link.slot = .empty ∨ (∃ lseq n, s.link.slot = .held (tagAt r.payload) lseq n) →
    s.job? slot = some j → j.tag = tagAt r.payload → j.state = .active → j.unbreakable = false →
    j.port = some p → (s.port p).state = .running run → run.slot = slot →
    let answered : State := s.replied r (0x02 :: tagBytes j.tag)
    let stopped : Job := { j with stopping := true, ending := j.ending || j.recurring }
    let here : Job := { stopped with run := { j.run with
      failStep := j.run.curStep, failByte := j.run.curByte } }
    let withJob (x : Job) : State := { answered with slots := s.slots.set slot (some x) }
    let underWay : Prop := run.held = true ∨
      (u = true ∧ ∀ n, (s.port p).tracker ≠ some (.busy n))
    (j.stopping = true ∨ run.phase = .runStart ∨ run.phase = .address ∨ run.phase = .poll ∨
        run.phase = .write ∨ run.phase = .read ∨ (∃ after, run.phase = .stop after) ∨
        (run.phase = .start ∧ underWay) →
      exec (.cancel u) s = .next (withJob stopped)) ∧
    (j.stopping = false → run.phase = .pauseHold → run.held = true →
      exec (.cancel u) s = .next ((withJob here).setPort p { s.port p with
        state := .running { run with phase := .stop .stopping }
        drive := Drive.bothLow, stretch := 0 })) ∧
    (j.stopping = false → run.held = false →
      run.phase = .pollGap ∨ run.phase = .pauseFree ∨ (run.phase = .start ∧ ¬underWay) →
      exec (.cancel u) s = .next ((withJob here).finishRun p run .cancelled .idle))

/-- JOB_STATUS and FETCH read a live job by its tag and change nothing. FETCH's checks come in the
order length, tag, state, range; it is answered with bytes of the job's read area. -/
def Obligations.JobStatusAndFetchReadTheJob : Prop :=
  (∀ (s : State) (r : Request), s.MayTake .jobStatus r → r.payload.length = 2 → s.TableLaw →
    let tag := tagAt r.payload
    ((∀ i j, s.job? i = some j → j.tag ≠ tag) →
      exec .jobStatus s = .next (s.replied r [0x30])) ∧
    (∀ slot j, s.job? slot = some j → j.tag = tag →
      exec .jobStatus s = .next (s.replied r (0x00 :: (tagBytes tag ++
        [(match j.state with | .pending => 0 | .ready => 1 | .active => 2 | .done => 3 : Byte)] ++
        bytesBE 4 j.admission.toNat ++
        [(if j.ending then 0x01 else 0x00 : Byte) + (if j.stopping then 0x02 else 0x00)
          + (if j.replyHeld then 0x04 else 0x00)] ++
        bytesBE 2 j.runsDone ++
        [BitVec.ofNat 8 j.missed,
         if j.state = .active then BitVec.ofNat 8 j.run.curStep else 0,
         if j.state = .active then BitVec.ofNat 8 j.run.curByte else 0,
         match j.state, j.run.outcome with | .done, some o => o.code | _, _ => 0] ++
        bytesBE 2 (if j.state = .done then j.run.received else 0)))))) ∧
  (∀ (s : State) (r : Request), s.MayCarryOut .fetch r → r.payload.length = 6 → s.TableLaw →
    let tag := tagAt r.payload
    let off := fieldAt r.payload 2 2
    let len := fieldAt r.payload 4 2
    (len = 0 ∨ 256 < len → exec .fetch s = .next (s.replied r [0x11, 0, 4])) ∧
    (1 ≤ len → len ≤ 256 → (∀ i j, s.job? i = some j → j.tag ≠ tag) →
      exec .fetch s = .next (s.replied r [0x30])) ∧
    (∀ slot j, 1 ≤ len → len ≤ 256 → s.job? slot = some j → j.tag = tag →
      (j.state ≠ .done → exec .fetch s = .next (s.replied r [0x31])) ∧
      (j.state = .done → j.run.received < off + len →
        exec .fetch s = .next (s.replied r [0x11, 0, 2])) ∧
      (j.state = .done → off + len ≤ j.run.received →
        exec .fetch s = .next (s.replied r (0x00 :: (tagBytes tag ++ bytesBE 2 off ++ bytesBE 2 len ++
          (List.range len).map (fun i =>
            Memory.read s.pool (poolAddr j.blocks (j.writeLen + (off + i))))))))))

/-- RELEASE frees a DONE job: its slot, tag and blocks become free, and nothing else changes. A tag of
no live job and a job that is not DONE are answered and stand. -/
def Obligations.ReleaseFreesADoneJob : Prop :=
  ∀ (s : State) (r : Request), s.MayCarryOut .release r → r.payload.length = 2 →
    s.TableLaw → s.DispatchLaw →
    let tag := tagAt r.payload
    let reply (u : State) (status : Byte) : State := u.replied r (status :: tagBytes tag)
    ((∀ i j, s.job? i = some j → j.tag ≠ tag) → exec .release s = .next (reply s 0x30)) ∧
    (∀ slot j, s.job? slot = some j → j.tag = tag →
      (j.state ≠ .done → exec .release s = .next (reply s 0x31)) ∧
      (j.state = .done →
        exec .release s = .next (reply { s with slots := s.slots.set slot none } 0x00)))

/-- The end of a run on a port, for a job whose reply is not held. The end time and the outcome are
written, runs done is raised up to 65,535, the report carries the run record with the first 48 read bytes
and is queued through the run's reservation, missed runs return to 0, and the port releases both lines and
enters its next state: IDLE, DETACHED or the recovery of origin RUN at its first stage. A short single-shot job is freed, a long one becomes DONE; a recurring job goes
back to PENDING, or ends with LAST set after a cancelled run, with its ending field, at its last run or
past its deadline, which is compared with the time, and with the time before the increment where the run
end comes before its evaluation (`ahead`, log 4). -/
def Obligations.ARunEndReportsAndClosesTheJob : Prop :=
  ∀ (s : State) (p : PortId) (r : Run) (o : JobOutcome) (next : PortState) (j : Job),
    next = .idle ∨ next = .detached ∨ next = .recovering .run .release → s.job? r.slot = some j → j.port = some p → j.replyHeld = false →
    r.slot ∉ (s.port p).ready →
    let slot := r.slot
    let run : RunRecord := { j.run with
      endTime := s.time, startTime := if r.started then j.run.startTime else s.time
      outcome := some o }
    let done := min (j.runsDone + 1) 65535
    let report (last : Bool) : Report := .job {
      tag := j.tag, outcome := o, late := j.run.late, last := last, long := decide (48 < j.readTotal)
      runNumber := done, missed := j.missed, retriesUsed := j.run.retriesUsed
      failStep := if o = .done then 0 else j.run.failStep
      failByte := if o = .done then 0 else j.run.failByte
      triggerTime := j.run.triggerTime, startTime := run.startTime, endTime := s.time
      marks := j.run.marks, received := j.run.received
      data := (List.range (min j.run.received 48)).map (fun i =>
        Memory.read s.pool (poolAddr j.blocks (j.writeLen + i))) }
    let consumed (last : Bool) : ReportQueue :=
      { s.reports.push (report last) with reserved := s.reports.reserved - 1 }
    let left (x : Option Job) (q : ReportQueue) : State :=
      ({ s with slots := s.slots.set slot x, reports := q } : State).setPort p
        { s.port p with state := next, drive := Drive.released, stretch := 0 }
    let ends : Prop := o = .cancelled ∨ j.ending = true ∨
      (∃ period phase runs, j.trigger = .every period phase runs ∧ runs.toNat ≠ 0 ∧
        done = runs.toNat) ∨ (∃ d, j.deadline = some d ∧
        d.toNat < (if s.tick.ahead = true then s.time - 1 else s.time).toNat)
    (j.recurring = false → j.standing = true → j.runRes = false → j.readTotal ≤ 48 →
      s.finishRun p r o next = left none (consumed true)) ∧
    (j.recurring = false → j.standing = true → j.runRes = false → 48 < j.readTotal →
      s.finishRun p r o next = left (some { j with
        state := .done, standing := false, runsDone := done, missed := 0, run := run })
        (consumed true)) ∧
    (j.recurring = true → j.runRes = true → ¬ends →
      s.finishRun p r o next = left (some { j with
        state := .pending, runRes := false, runsDone := done, missed := 0, run := run
        ending := false, stopping := false }) (consumed false)) ∧
    (j.recurring = true → j.runRes = true → j.standing = true → ends →
      ∃ notices, let t := s.finishRun p r o next
        t.job? slot = none ∧ (∀ i, i ≠ slot → t.job? i = s.job? i) ∧
        (t.port p).state = next ∧ (t.port p).drive = Drive.released ∧
        (t.port p).ready = (s.port p).ready ∧
        t.reports.queued = s.reports.queued ++ report true :: notices ∧
        (∀ x ∈ notices, x.source ≠ none) ∧ t.reports.reserved = s.reports.reserved - 2 ∧
        t.link = s.link ∧ t.pool = s.pool ∧ t.time = s.time)

/-- Where the reply of a job is held, its final report is sent as the held reply and not queued: at the
tail of the transmit queue where that has room and no RESET is pending, else waiting for room. A job
that ends without a run gives its reservations back and is freed: so it goes at the increment past its
deadline. One whose run ends gives its standing reservation back and is freed, or DONE where it is long,
its reply no longer held. -/
def Obligations.AHeldJobEndsInItsHeldReply : Prop :=
  ∀ (s : State) (slot : Nat) (j : Job) (o : JobOutcome) (lseq : Byte) (n : Nat),
    s.job? slot = some j → j.replyHeld = true → s.link.slot = .held j.tag lseq n →
    let sent (r : JobReport) : Link :=
      let w : Reply := ⟨0xC0, lseq, 0x00 :: r.bytes⟩
      if s.link.tx.length < 4 ∧ s.link.resetPending = false
      then { s.link with tx := s.link.tx ++ [w], slot := .empty }
      else { s.link with slot := .waitingRoom w }
    (∃ notices, let t := s.endWithoutRun slot o
      t.job? slot = none ∧ (∀ i, i ≠ slot → t.job? i = s.job? i) ∧
      t.link = sent {
        tag := j.tag, outcome := o
        late := if j.state = .ready then j.run.late else false
        last := true, long := decide (48 < j.readTotal), runNumber := j.runsDone, missed := j.missed
        retriesUsed := 0, failStep := 0, failByte := 0
        triggerTime := if j.state = .ready then j.run.triggerTime else 0
        startTime := s.time, endTime := s.time, marks := [], received := 0, data := [] } ∧
      t.reports.queued = s.reports.queued ++ notices ∧ (∀ x ∈ notices, x.source ≠ none) ∧
      t.reports.reserved = s.reports.reserved - j.reservations ∧ t.time = s.time) ∧
    (∀ (tag : Tag) (rest : List Nat) (d : Time), s.Evaluates tag slot rest j →
      j.state = .pending ∨ j.state = .ready → j.deadline = some d → d.toNat < s.time.toNat →
      exec (.deadlineExpiry tag) s
        = .next ((s.endWithoutRun slot .expired).leftToEvaluate rest)) ∧
    (∀ (p : PortId) (r : Run) (next : PortState), r.slot = slot → j.port = some p →
      j.recurring = false → j.standing = true → j.runRes = false →
      let start := if r.started then j.run.startTime else s.time
      ∃ notices, let t := s.finishRun p r o next
        (t.port p).state = next ∧ (∀ i, i ≠ slot → t.job? i = s.job? i) ∧
        t.link = sent {
          tag := j.tag, outcome := o, late := j.run.late, last := true
          long := decide (48 < j.readTotal), runNumber := min (j.runsDone + 1) 65535
          missed := j.missed, retriesUsed := j.run.retriesUsed
          failStep := if o = .done then 0 else j.run.failStep
          failByte := if o = .done then 0 else j.run.failByte
          triggerTime := j.run.triggerTime, startTime := start, endTime := s.time
          marks := j.run.marks, received := j.run.received
          data := (List.range (min j.run.received 48)).map (fun i =>
            Memory.read s.pool (poolAddr j.blocks (j.writeLen + i))) } ∧
        t.reports.queued = s.reports.queued ++ notices ∧ (∀ x ∈ notices, x.source ≠ none) ∧
        t.reports.reserved = s.reports.reserved - 1 ∧ t.time = s.time ∧ t.pool = s.pool ∧
        (j.readTotal ≤ 48 → t.job? slot = none) ∧
        (48 < j.readTotal → t.job? slot = some { j with
          state := .done, standing := false, replyHeld := false, missed := 0
          runsDone := min (j.runsDone + 1) 65535
          run := { j.run with endTime := s.time, startTime := start, outcome := some o } }))

/-! ## The ports -/

/-- CONFIG_PORT's checks in order: its fields at their offsets, a port that is RUNNING or RECOVERING, and
port B wanted in service while EV6 or EV7 has an edge setting. Each failing CONFIG_PORT is answered and
changes nothing else. -/
def Obligations.ConfigPortIsRefusedInOrder : Prop :=
  ∀ (s : State) (r : Request) (l : Levels) (port mode speed slow s1 s2 pres t1 t2 en : Byte),
    s.MayCarryOut .configPort r →
    r.payload = [port, mode, speed, slow, s1, s2, pres, t1, t2, en] →
    let refused (payload : List Byte) : Prop :=
      exec (.configPort l) s = .next (s.replied r payload)
    (port ≠ 1 → port ≠ 2 → refused [0x11, 0, 0]) ∧
    (∀ p, portCode p = port →
      (3 ≤ mode.toNat → refused [0x11, 0, 1]) ∧
      (mode.toNat < 3 →
        (3 ≤ speed.toNat → refused [0x11, 0, 2]) ∧
        (speed.toNat < 3 → 4 ≤ slow.toNat → refused [0x11, 0, 3]) ∧
        (speed.toNat < 3 → slow.toNat < 4 →
          (s1 = 0 → s2 = 0 → refused [0x11, 0, 4]) ∧
          (s1 ≠ 0 ∨ s2 ≠ 0 →
            (2 ≤ pres.toNat → refused [0x11, 0, 6]) ∧
            (pres.toNat < 2 → 2 ≤ en.toNat → refused [0x11, 0, 9]) ∧
            (pres.toNat < 2 → en.toNat < 2 →
              ((∃ run, (s.port p).state = .running run) ∨
                  (∃ o n, (s.port p).state = .recovering o n) → refused [0x26]) ∧
              ((∀ run, (s.port p).state ≠ .running run) →
                (∀ o n, (s.port p).state ≠ .recovering o n) → p = .b → mode ≠ 0 →
                ((s.line 6).config.edge ≠ .off ∨ (s.line 7).config.edge ≠ .off) →
                refused [0x27]))))))

/-- An accepted CONFIG_PORT that leaves its port OFF or in service replaces all seven settings at once
and moves the port: into service through presence, settle or a line check, in service by the new
presence setting. Of these entries only one into DETACHED asks for a notice (log 14, log 25). The
tracker is FREE at the CONFIG_PORT that sets SHARED and is kept while the port stays SHARED. Port B's
coming into service clears the samplers of EV6 and EV7, whose run start the model then holds at 0 (log
13: the model's choice), and an edge of theirs that was to be detected is not. The port drives neither
line. The OK reply carries the state after it all. -/
def Obligations.ConfigPortMovesThePort : Prop :=
  ∀ (s : State) (r : Request) (l : Levels) (p : PortId) (c : PortSettings),
    s.MayCarryOut .configPort r →
    r.payload = [portCode p, c.mode.code, c.speed.code, c.slowing.code]
      ++ bytesBE 2 c.stretchLimit.toNat ++ [c.presence.code] ++ bytesBE 2 c.settleTime.toNat
      ++ [if c.noticeEn then 1 else 0] →
    c.stretchLimit ≠ 0 → (∀ run, (s.port p).state ≠ .running run) →
    (∀ o n, (s.port p).state ≠ .recovering o n) →
    s.DriveLaw →
    (p = .b → c.mode ≠ .off → (s.line 6).config.edge = .off ∧ (s.line 7).config.edge = .off) →
    (c.mode = .off → (s.port p).settings.mode = .off) →
    let x := s.port p
    let opens : Prop := x.settings.mode = .off ∧ c.mode ≠ .off
    let checked (o : Origin) : PortState := if l.scl = true ∧ l.sda = true then .idle
      else .recovering o .release
    let settled : PortState := if c.settleTime = 0 then checked .settle else .settling 0
    let after : PortState :=
      if c.mode = .off then x.state
      else if x.settings.mode = .off then
        match c.presence with
        | .ignore => checked .enable
        | .require => if x.present then settled else .detached
      else match c.presence, x.state with
        | .ignore, .detached => checked .enable
        | .ignore, .settling _ => checked .enable
        | .require, .settling n => if c.settleTime.toNat ≤ n then checked .settle else .settling n
        | .require, .idle => if x.present then .idle else .detached
        | .require, .stuck n => if x.present then .stuck n else .detached
        | _, y => y
    let asks : Prop := after = .detached ∧ (opens ∨ x.state ≠ .detached)
    ∃ t, exec (.configPort l) s = .next t ∧
      (t.port p).settings = c ∧ (t.port p).state = after ∧ (t.port p).drive = Drive.released ∧
      (t.port p).present = x.present ∧
      (t.port p).ready = x.ready ∧
      (t.port p).tracker = (if c.mode = .shared
        then (if x.settings.mode = .shared then x.tracker else some .free) else none) ∧
      (∀ q, q ≠ p → t.port q = s.port q) ∧
      t.link = (s.replied r [0x00, after.shown.code]).link ∧
      (asks → NoticeAsked (.port p) (.port p .detached s.time) c.noticeEn s.reports x.notice
        t.reports (t.port p).notice) ∧
      (¬asks → t.reports = s.reports ∧ (t.port p).notice = x.notice) ∧
      (∀ n, (t.line n).config = (s.line n).config ∧ (t.line n).capture = (s.line n).capture ∧
        (t.line n).notice = (s.line n).notice) ∧
      (p = .b → opens → ∀ n, n < s.lines.length → n = 6 ∨ n = 7 →
        (t.line n).sampler = { settled := .unknown, runCount := 0, runStart := 0 }) ∧
      (∀ n, (p = .a ∨ ¬opens ∨ (n ≠ 6 ∧ n ≠ 7)) → t.line n = s.line n) ∧
      t.tick = (if p = .b ∧ opens
        then { s.tick with edges := s.tick.edges.filter (fun n => decide (n < 6)) } else s.tick) ∧
      t.slots = s.slots ∧ t.pool = s.pool ∧ t.time = s.time

/-- A CONFIG_PORT that sets a port in service OFF: every PENDING and READY job of the port is ended
PORT_CLOSED, in admission order, each with its report, then the port is OFF, keeps no tracker and drives
neither line. Jobs of the other port, markers and DONE jobs stand. No port notice is asked for: the only
notices queued are the oldest owed before, which the room that comes back lets in, in their order, and
the owed list and the notice states move with them alone. -/
def Obligations.ConfigPortOffClosesTheJobs : Prop :=
  ∀ (s : State) (r : Request) (l : Levels) (p : PortId) (c : PortSettings),
    s.MayCarryOut .configPort r → s.DispatchLaw → s.HeldLaw →
    r.payload = [portCode p, c.mode.code, c.speed.code, c.slowing.code]
      ++ bytesBE 2 c.stretchLimit.toNat ++ [c.presence.code] ++ bytesBE 2 c.settleTime.toNat
      ++ [if c.noticeEn then 1 else 0] →
    c.stretchLimit ≠ 0 → (∀ run, (s.port p).state ≠ .running run) →
    (∀ o n, (s.port p).state ≠ .recovering o n) →
    c.mode = .off → (s.port p).settings.mode ≠ .off →
    let closes (j : Job) : Prop := j.port = some p ∧ (j.state = .pending ∨ j.state = .ready)
    ∃ t reports k, exec (.configPort l) s = .next t ∧
      (t.port p).settings = c ∧ (t.port p).state = .off ∧ (t.port p).tracker = none ∧
      (t.port p).drive = Drive.released ∧
      (t.port p).ready = [] ∧ (∀ q, q ≠ p → (t.port q).ready = (s.port q).ready ∧
        (t.port q).state = (s.port q).state ∧ (t.port q).settings = (s.port q).settings) ∧
      (∀ i j, s.job? i = some j → closes j → t.job? i = none) ∧
      (∀ i, (∀ j, s.job? i = some j → ¬closes j) → t.job? i = s.job? i) ∧
      t.reports.queued = s.reports.queued ++ reports ∧
      reports.filter (fun x => x.source == none) =
        (s.slotsToClose p).flatMap (fun i => match s.job? i with
          | some j => [Report.job (s.endReport j .portClosed)]
          | none => []) ∧
      (∀ i, i ∈ s.slotsToClose p ↔ ∃ j, s.job? i = some j ∧ closes j) ∧
      (s.slotsToClose p).Pairwise (fun i k => s.age k ≤ s.age i) ∧
      reports.filterMap Report.source = s.reports.owed.take k ∧
      t.reports.owed = s.reports.owed.drop k ∧
      (∀ q, (t.port q).notice = if Source.port q ∈ s.reports.owed.take k then .queued
        else (s.port q).notice) ∧
      (∀ n, n < s.lines.length → t.line n = { s.line n with
        notice := if Source.line n ∈ s.reports.owed.take k then .queued else (s.line n).notice }) ∧
      t.link = (s.replied r [0x00, 0x00]).link ∧ t.time = s.time ∧ t.pool = s.pool

/-- GET_PORT refuses a port that does not exist and otherwise answers the port's settings, states,
presence, notice state, ready count and the tag of its ACTIVE job, changing nothing. The reported state
shows a port that is RUNNING, or RECOVERING with origin RUN or ENABLE, as IDLE, one RECOVERING with
origin SETTLE as SETTLING and one with origin STUCK as STUCK. -/
def Obligations.GetPortReadsThePort : Prop :=
  ∀ (s : State) (r : Request) (b : Byte), s.MayCarryOut .getPort r → r.payload = [b] →
    (b ≠ 1 → b ≠ 2 → exec .getPort s = .next (s.replied r [0x11, 0, 0])) ∧
    (∀ p, portCode p = b →
      let x := s.port p
      let shown : ShownState := match x.state with
        | .off => .off
        | .detached => .detached
        | .settling _ => .settling
        | .idle => .idle
        | .running _ => .running
        | .recovering _ _ => .recovering
        | .stuck _ => .stuck
      let reported : ShownState := match x.state with
        | .running _ => .idle
        | .recovering .run _ => .idle
        | .recovering .enable _ => .idle
        | .recovering .settle _ => .settling
        | .recovering .stuck _ => .stuck
        | _ => shown
      let tag : Tag := match x.state with
        | .running run => match s.job? run.slot with
          | some j => j.tag
          | none => 0
        | _ => 0
      exec .getPort s = .next (s.replied r (0x00 ::
        ([b, x.settings.mode.code, x.settings.speed.code, x.settings.slowing.code]
          ++ bytesBE 2 x.settings.stretchLimit.toNat ++ [x.settings.presence.code]
          ++ bytesBE 2 x.settings.settleTime.toNat
          ++ [if x.settings.noticeEn then 1 else 0, shown.code, reported.code,
              if x.present then 1 else 0, x.notice.code, BitVec.ofNat 8 x.ready.length]
          ++ tagBytes tag))))

/-- A debounced change to ABSENT on a port in service with presence REQUIRE: the port enters DETACHED and
asks for a notice, driving neither line; where it is RUNNING, the run ends DETACHED at the current position,
with the read bytes counted whose eighth bit had been taken (those `received` counts, O48). Bits of the byte
in progress that come with the command are taken first, as by the row of that byte (log 7: the model's
choice). -/
def Obligations.PresenceLossDetachesThePort : Prop :=
  (∀ (s : State) (p : PortId), s.Quiet → s.TakesBitsFirst p (.presenceLoss p)) ∧
  ∀ (s : State) (p : PortId), s.Quiet →
    (s.port p).present = true → 64 ≤ (s.port p).presRun → (s.port p).settings.mode ≠ .off →
    (s.port p).settings.presence = .require →
    let absent : Port := { s.port p with present := false, presRun := 0 }
    ((∀ run, (s.port p).state ≠ .running run) →
      exec (.presenceLoss p []) s = .next ((s.setPort p { absent with
        state := .detached, drive := Drive.released, stretch := 0 }).askNotice (.port p))) ∧
    (∀ run j, (s.port p).state = .running run → s.job? run.slot = some j →
      let stopped : State :=
        ({ s with slots := s.slots.set run.slot (some { j with run := { j.run with
            failStep := j.run.curStep, failByte := j.run.curByte } }) } : State).setPort p absent
      exec (.presenceLoss p []) s
        = .next ((stopped.finishRun p run .detached .detached).askNotice (.port p)))

/-- A debounced change to PRESENT takes a DETACHED port to SETTLING, or with a settle time of 0 to the
end of the settle at once, and leaves any other port where it is. A settle ends in a line check: IDLE
with a notice, or a recovery of origin SETTLE without one. The port drives neither line. -/
def Obligations.PresenceGainSettlesThePort : Prop :=
  (∀ (s : State) (p : PortId), s.Quiet → (s.port p).present = false → 64 ≤ (s.port p).presRun →
    (s.port p).settings.mode ≠ .off → (s.port p).settings.presence = .require →
    let x : Port := { s.port p with present := true, presRun := 0 }
    ((s.port p).state ≠ .detached → exec (.presenceGain p) s = .next (s.setPort p x)) ∧
    ((s.port p).state = .detached → (s.port p).settings.settleTime ≠ 0 →
      exec (.presenceGain p) s
        = .next (s.setPort p { x with state := .settling 0, drive := Drive.released, stretch := 0 })) ∧
    ((s.port p).state = .detached → (s.port p).settings.settleTime = 0 →
      exec (.presenceGain p) s = .next (
        if (s.linesOf p).scl = true ∧ (s.linesOf p).sda = true
        then (s.setPort p { x with
          state := .idle, drive := Drive.released, stretch := 0 }).askNotice (.port p)
        else s.setPort p { x with
          state := .recovering .settle .release, drive := Drive.released, stretch := 0 }))) ∧
  (∀ (s : State) (p : PortId) (n : Nat), s.Quiet → (s.port p).state = .settling n →
    (s.port p).settings.settleTime.toNat ≤ n →
    exec (.settleEnd p) s = .next (
      if (s.linesOf p).scl = true ∧ (s.linesOf p).sda = true
      then (s.setPort p { s.port p with
        state := .idle, drive := Drive.released, stretch := 0 }).askNotice (.port p)
      else s.setPort p { s.port p with
        state := .recovering .settle .release, drive := Drive.released, stretch := 0 }))

/-- A recovery stands at the release of its stage 1, in a pulse, or in its STOP. Readings of SDA low
count their pulses, and a tenth fails it; one high brings it to the STOP, after which the line check
ends it: success is IDLE, with a notice for the origins SETTLE and STUCK, failure is STUCK, with a
notice for every origin but STUCK. The STOP, where SDA rises at it, makes a tracker FREE (log 9).
Readings that do not reach the line check leave it at its stage, driving SCL low in a pulse and both
lines low in the STOP (log 20, log 29), and no reading moves nothing. A re-check of a STUCK port finds
it IDLE, with a notice, begins a recovery of origin STUCK, or waits again, with both lines released. -/
def Obligations.RecoveryAndRecheckMoveThePort : Prop :=
  (∀ (s : State) (p : PortId) (o : Origin) (stage : RecoveryStage),
    s.Quiet → s.stretchDue p = false → (s.port p).state = .recovering o stage →
    let pulses := match stage with | .release => 0 | .pulse n => n | .stop n => n
    let kept := (s.port p).tracker
    let freed := kept.map (fun _ => Tracker.free)
    let moved (tracker : Option Tracker) (x : PortState) (drive : Drive) : State :=
      s.setPort p { s.port p with tracker := tracker, state := x, drive := drive, stretch := 0 }
    let failed (tracker : Option Tracker) : State :=
      let u := moved tracker (.stuck 0) { scl := .released, sda := .released }
      if o = .stuck then u else u.askNotice (.port p)
    let ended (tracker : Option Tracker) : State :=
      let u := moved tracker .idle { scl := .released, sda := .released }
      if o = .settle ∨ o = .stuck then u.askNotice (.port p) else u
    let checked (l : Levels) : State :=
      if l.scl = true ∧ l.sda = true then (ended freed).readLines p l
      else (failed (if l.sda = true then freed else kept)).readLines p l
    ((∀ n, stage ≠ .stop n) →
      (∀ k after, pulses + k ≤ 9 →
        (∀ l, exec (.recoveryEnd p (List.replicate k false ++ true :: after) (some l)) s
          = .next (checked l)) ∧
        exec (.recoveryEnd p (List.replicate k false ++ true :: after) none) s
          = .next (moved kept (.recovering o (.stop (pulses + k))) { scl := .low, sda := .low })) ∧
      (∀ k after lines, pulses ≤ 9 → 10 ≤ pulses + k →
        exec (.recoveryEnd p (List.replicate k false ++ after) lines) s = .next (failed kept)) ∧
      (∀ k lines, pulses + k ≤ 9 → 0 < k → exec (.recoveryEnd p (List.replicate k false) lines) s
        = .next (moved kept (.recovering o (.pulse (pulses + k))) { scl := .low, sda := .released })) ∧
      (∀ lines, exec (.recoveryEnd p [] lines) s = .next s)) ∧
    (∀ n, stage = .stop n → ∀ sda,
      (∀ l, exec (.recoveryEnd p sda (some l)) s = .next (checked l)) ∧
      exec (.recoveryEnd p sda none) s = .next s)) ∧
  (∀ (s : State) (p : PortId) (n : Nat), s.Quiet → (s.port p).state = .stuck n → 1024 ≤ n →
    let move (x : PortState) : State := s.setPort p { s.port p with
      state := x, drive := Drive.released, stretch := 0 }
    exec (.stuckRecheck p) s = .next (
      if (s.linesOf p).scl = true ∧ (s.linesOf p).sda = true then (move .idle).askNotice (.port p)
      else if (s.linesOf p).scl = true then move (.recovering .stuck .release)
      else move (.stuck 0)))

/-- The bus tracker: another master's START makes it BUSY, counting high increments from 0 (log 9), a
STOP makes it FREE, and so do the line-high increments that end it; a port that keeps no tracker is
left alone. -/
def Obligations.TheTrackerFollowsTheBus : Prop :=
  ∀ (s : State) (p : PortId), s.Quiet →
    ((s.port p).tracker = none →
      exec (.busStartSeen p) s = .next s ∧ exec (.busStopSeen p) s = .next s) ∧
    (∀ k, (s.port p).tracker = some k →
      exec (.busStartSeen p) s
        = .next (s.setPort p { s.port p with tracker := some (.busy 0) }) ∧
      exec (.busStopSeen p) s = .next (s.setPort p { s.port p with tracker := some .free })) ∧
    (∀ n, (s.port p).tracker = some (.busy n) → 64 ≤ n →
      exec (.trackerTimeout p) s = .next (s.setPort p { s.port p with tracker := some .free }))

/-! ## Dispatch and the run on the wire -/

/-- An IDLE port takes the first job of its ready list whose deadline is not below the time: the job
leaves the list and is ACTIVE at step 0, and the port is RUNNING it with fresh run-local state. A port
that is not IDLE, or whose list holds no such job, takes none. A dispatch that comes before the time
base's event of an increment is the same act. That a dispatch with no cause of R93 outstanding takes a job
too is the model's choice (log 33). -/
def Obligations.DispatchTakesTheFirstEligible : Prop :=
  ∀ (s : State) (p : PortId), s.Quiet →
    let passedOver (slot : Nat) : Prop := ∀ j, s.job? slot = some j → j.state = .ready →
      ∃ d, j.deadline = some d ∧ d.toNat < s.time.toNat
    exec (.dispatch p) s = .next (s.takeEarly (.dispatch p)) ∧
    ((s.port p).state ≠ .idle → exec (.dispatch p) s = .next s) ∧
    ((∀ slot ∈ (s.port p).ready, passedOver slot) → exec (.dispatch p) s = .next s) ∧
    (∀ ahead slot behind j, (s.port p).state = .idle → (s.port p).ready = ahead ++ slot :: behind →
      (∀ i ∈ ahead, passedOver i) → s.job? slot = some j → j.state = .ready →
      (∀ d, j.deadline = some d → s.time.toNat ≤ d.toNat) →
      exec (.dispatch p) s = .next (({ s with slots := s.slots.set slot (some { j with
          state := .active, run := { j.run with curStep := 0, curByte := 0 } }) } : State).setPort p
        { s.port p with
          ready := (s.port p).ready.filter (· ≠ slot)
          drive := Drive.released
          stretch := 0
          state := .running {
            slot := slot, phase := .runStart, held := false, committed := false, started := false
            writeCursor := 0, readCursor := 0, attempts := 0, pauseCount := 0, bits := [] } }))

/-- The run start: a set stopping field ends the run CANCELLED at once; a SOLE port whose lines are not
both high hands its job back to the head of its list, using no retry, and begins a recovery of origin
RUN; otherwise step 0 is taken. -/
def Obligations.TheRunStartChecksTheLines : Prop :=
  ∀ (s : State) (p : PortId) (r : Run) (j : Job) (l : Levels), s.OnWire p r .runStart →
    s.job? r.slot = some j → j.state = .active →
    let high : Prop := l.scl = true ∧ l.sda = true
    (j.stopping = true → exec (.runStart p l) s = .next
      (({ s with slots := s.slots.set r.slot (some { j with run := { j.run with
          failStep := j.run.curStep, failByte := j.run.curByte } }) } : State).readLines p
        l |>.finishRun p r .cancelled .idle)) ∧
    (j.stopping = false → (s.port p).settings.mode = .sole → ¬high →
      exec (.runStart p l) s = .next ((({ s with
          slots := s.slots.set r.slot (some { j with state := .ready }) } : State).readLines p
        l).setPort p { s.port p with
          ready := r.slot :: (s.port p).ready, state := .recovering .run .release
          drive := Drive.released, stretch := 0 })) ∧
    (j.stopping = false → (s.port p).settings.mode ≠ .sole ∨ high →
      exec (.runStart p l) s = .next (takeSteps p r 0 j.steps (s.readLines p l)))

/-- What a run does at each step it takes: ADDRESS and POLL go to their START, WRITE and READ to their
first byte, a STOP or PAUSE FREE to its STOP where the bus is held, a PAUSE to its wait from 0, a MARK
records the time; a STOP of a bus not held and a MARK take no time, so the next step follows in the
same event. At the end of the list a held bus gets the implied STOP, and otherwise the run ends DONE. A
held bus has SCL low, and SDA low only in a STOP; in a PAUSE FREE both lines are released (log 29). -/
def Obligations.EachStepIsTakenByItsKind : Prop :=
  ∀ (s : State) (p : PortId) (r : Run) (j : Job), s.RunsJob r j →
    let at' (i : Nat) (marks : List Time) : State := { s with
      slots := s.slots.set r.slot (some { j with run := { j.run with
        curStep := i, curByte := 0, marks := marks } }) }
    let goes (i : Nat) (st : Machine.Step) (r' : Run) (drive : Drive) : Prop := ∀ rest,
      takeSteps p r i (st :: rest) s = (at' i j.run.marks).setPort p { s.port p with
        state := .running r', drive := drive, stretch := 0 }
    let start : Drive := if r.held then Drive.holding else Drive.released
    (∀ i target dir, goes i (.address target dir) { r with phase := .start } start) ∧
    (∀ i target limit gap,
      goes i (.poll target limit gap) { r with phase := .start, attempts := 1 } start) ∧
    (∀ i n, goes i (.write n) { r with phase := .write } Drive.holding) ∧
    (∀ i n, goes i (.read n) { r with phase := .read } Drive.holding) ∧
    (∀ i n, goes i (.pause .hold n) { r with phase := .pauseHold, pauseCount := 0 } Drive.holding) ∧
    (∀ i, r.held = true → goes i .stop { r with phase := .stop .step } Drive.bothLow) ∧
    (∀ i rest, r.held = false →
      takeSteps p r i (.stop :: rest) s = takeSteps p r (i + 1) rest (at' i j.run.marks)) ∧
    (∀ i n, r.held = true →
      goes i (.pause .free n) { r with phase := .stop .pauseFree } Drive.bothLow) ∧
    (∀ i n, r.held = false →
      goes i (.pause .free n) { r with phase := .pauseFree, pauseCount := 0 } Drive.released) ∧
    (∀ i rest, takeSteps p r i (.mark :: rest) s
      = takeSteps p r (i + 1) rest (at' i (j.run.marks ++ [s.time]))) ∧
    (∀ i, r.held = true → takeSteps p r i [] s
      = (at' j.run.curStep j.run.marks).setPort p { s.port p with
          state := .running { r with phase := .stop .implied }
          drive := Drive.bothLow, stretch := 0 }) ∧
    (∀ i, r.held = false → takeSteps p r i [] s
      = (at' j.run.curStep j.run.marks).finishRun p r .done .idle) ∧
    s.nextStep p r = takeSteps p r (j.run.curStep + 1) (j.steps.drop (j.run.curStep + 1)) s

/-- A START or repeated START completes: the bus is held with both lines low, the first START of the run
sets the start time, the address byte follows, and a tracker is BUSY, its count of high increments
beginning at 0 (log 9: DEDUCED, the model's choice). A port that does not hold the bus gives no START
unless both lines read high and its tracker, where it keeps one, is FREE; that a SOLE port too waits for
both lines is the model's choice (log 31). -/
def Obligations.StartHoldsTheBus : Prop :=
  ∀ (s : State) (p : PortId) (r : Run) (j : Job) (st : Machine.Step) (l : Levels),
    s.OnWire p r .start → s.RunsJob r j → j.steps[j.run.curStep]? = some st →
    let free : Prop := l.scl = true ∧ l.sda = true ∧ ∀ n, (s.port p).tracker ≠ some (.busy n)
    let started : State := ({ s with
      slots := s.slots.set r.slot (some { j with run := { j.run with
        startTime := if r.started then j.run.startTime else s.time } }) } : State).setPort p
      { s.port p with
        tracker := (s.port p).tracker.map (fun _ => .busy 0)
        stretch := 0
        drive := Drive.bothLow
        state := .running { r with
          held := true
          started := true
          phase := match st with | .poll _ _ _ => .poll | _ => .address } }
    (r.held = false → ¬free → exec (.start ⟨p, l⟩) s = .next (s.readLines p l)) ∧
    (r.held = false → free → exec (.start ⟨p, l⟩) s = .next (started.readLines p l)) ∧
    (r.held = true → exec (.start ⟨p, l⟩) s = .next started)

/-- The address byte of an ADDRESS is its 7-bit target, then the direction bit, 0 for W and 1 for R; of a
POLL attempt its target, then 0. Its bits are given one after another, the most significant first, SDA
pulled low for a 0 and released for a 1, then released for the ninth (`pulls`, log 30: the model's record),
and each ends with SCL low; fewer than nine leave the byte in progress. At its ninth bit the byte has been
sent (`sent`, log 30: the model's record). Acknowledged, which reads low, the run is committed and its next
step follows. Not acknowledged, an ADDRESS fails ABSENT at the current position and goes to its STOP; a POLL
attempt below the limit goes to the STOP before its gap, and at the limit fails POLL_LIMIT. At the beginning
of a STOP both lines are shown low (log 29: DESIGN CHOICE, DEDUCED). -/
def Obligations.AddressAndPollActOnTheirAcknowledge : Prop :=
  ∀ (s : State) (p : PortId) (r : Run) (j : Job) (bits : List Bool), s.RunsJob r j → bits ≠ [] →
    let x := s.port p
    let all := r.bits ++ bits
    let between : Run := { r with bits := [] }
    let after (b : Byte) : State := s.setPort p { x.withBits r all (pullsSent b) with
      state := .running between, sent := some b }
    let goes (b : Byte) (phase : Phase) : State := s.setPort p { x.withBits r all (pullsSent b) with
      state := .running { between with phase := phase }, drive := Drive.bothLow, sent := some b }
    let fails (b : Byte) (o : JobOutcome) : State := { goes b (.stop .failed) with
      slots := s.slots.set r.slot (some { j with run := { j.run with
        failStep := j.run.curStep, failByte := j.run.curByte, outcome := some o } }) }
    let sends (b : Byte) (c : Instr) (acked naked : State) : Prop :=
      x.Wins r.bits.length all (fun k => k < 8 ∧ b.getLsbD (7 - k) = true) →
      (all.length < 9 → exec c s = .next (s.setPort p (x.withBits r all (pullsSent b)))) ∧
      (all.length = 9 → exec c s = .next (if all[8]? = some false then acked else naked))
    (∀ target dir, s.OnWire p r .address →
      j.steps[j.run.curStep]? = some (.address target dir) →
      let b : Byte := BitVec.ofNat 8 (2 * target.toNat + match dir with | .w => 0 | .r => 1)
      sends b (.address p bits) ((after b).nextStep p { between with committed := true })
        (fails b .absent)) ∧
    (∀ target limit gap, s.OnWire p r .poll →
      j.steps[j.run.curStep]? = some (.poll target limit gap) →
      let b : Byte := BitVec.ofNat 8 (2 * target.toNat)
      sends b (.poll p bits) ((after b).nextStep p { between with committed := true })
        (if r.attempts < limit then goes b (.stop .pollGap) else fails b .pollLimit))

/-- The bits of a data byte, the most significant first, up to its ninth. A WRITE sends the write data byte
at the write cursor, bit by bit as an address byte is sent (`pulls`, `sent`, log 30: the model's record):
acknowledged, it commits the run and moves the cursor; refused, the run fails REFUSED at its position and
goes to its STOP. For a read byte SDA is released in eight bits; with the eighth it is written to the read
area and counted, and moves the read cursor; its ninth bit (`gave`, log 30) is a NAK, SDA released, for the
last byte of a READ that is not continued, and else an ACK, SDA low, which commits the run. A READ is
continued where the next step that is neither a MARK nor a PAUSE HOLD is a READ. After the last byte of a
step the next step follows. Between two bytes SCL is shown low and SDA released, at the beginning of a STOP
both low (log 29: DESIGN CHOICE, DEDUCED). The read byte reads back from the pool and every other pool byte
reads as before. -/
def Obligations.BytesMoveTheCursors : Prop :=
  ∀ (s : State) (p : PortId) (r : Run) (j : Job) (bits : List Bool), s.RunsJob r j → bits ≠ [] →
    let x := s.port p
    let all := r.bits ++ bits
    let withRun (u : State) (r' : Run) (drive : Drive) : State := u.setPort p
      { u.port p with state := .running r', drive := drive }
    let withRecord (u : State) (run : RunRecord) : State :=
      { u with slots := s.slots.set r.slot (some { j with run := run }) }
    (∀ n, s.OnWire p r .write → j.steps[j.run.curStep]? = some (.write n) →
      let b : Byte := Memory.read s.pool (poolAddr j.blocks r.writeCursor)
      let between : Run := { r with bits := [] }
      let sent : State := s.setPort p { x.withBits r all (pullsSent b) with
        state := .running between, sent := some b }
      let acked : Run := { between with committed := true, writeCursor := r.writeCursor + 1 }
      x.Wins r.bits.length all (fun k => k < 8 ∧ b.getLsbD (7 - k) = true) →
      (all.length < 9 →
        exec (.write p bits) s = .next (s.setPort p (x.withBits r all (pullsSent b)))) ∧
      (all.length = 9 → all[8]? = some false →
        exec (.write p bits) s = .next (if j.run.curByte + 1 < n
          then withRun (withRecord sent { j.run with curByte := j.run.curByte + 1 }) acked Drive.holding
          else sent.nextStep p acked)) ∧
      (all.length = 9 → all[8]? = some true →
        exec (.write p bits) s = .next (withRun (withRecord sent { j.run with
          failStep := j.run.curStep, failByte := j.run.curByte, outcome := some .refused })
          { between with phase := .stop .failed } Drive.bothLow))) ∧
    (∀ n b (naked : Bool), s.OnWire p r .read → j.steps[j.run.curStep]? = some (.read n) →
      let more : Prop := j.run.curByte + 1 < n
      let continued : Prop := ∃ k count, j.run.curStep < k ∧ j.steps[k]? = some (.read count) ∧
        ∀ i, j.run.curStep < i → i < k →
          j.steps[i]? = some .mark ∨ ∃ ticks, j.steps[i]? = some (.pause .hold ticks)
      (naked = true ↔ ¬more ∧ ¬continued) →
      (∀ k, k < 8 → k < all.length → all[k]? = some (b.getLsbD (7 - k))) →
      x.Wins r.bits.length all (fun k => k = 8 ∧ naked = true) →
      let eighth : Prop := r.bits.length < 8 ∧ 8 ≤ all.length
      let addr := poolAddr j.blocks (j.writeLen + r.readCursor)
      let record : RunRecord :=
        { j.run with received := if eighth then r.readCursor + 1 else j.run.received }
      let stored : State := { withRecord s record with
        pool := if eighth then Memory.write s.pool addr b else s.pool }
      let r' : Run := { r with readCursor := if eighth then r.readCursor + 1 else r.readCursor }
      let between : Run := { r' with bits := [] }
      let given : State := stored.setPort p { x.withBits r' all (pullsGiven naked) with
        state := .running between, gave := some (if naked then .nak else .ack) }
      let done : Run := { between with committed := r.committed || !naked }
      (all.length < 9 → exec (.read p bits) s
        = .next (stored.setPort p (x.withBits r' all (pullsGiven naked)))) ∧
      (all.length = 9 → exec (.read p bits) s = .next (if more
        then withRun (withRecord given { record with curByte := j.run.curByte + 1 }) done Drive.holding
        else given.nextStep p done)) ∧
      (s.PoolLaw → eighth → Memory.read stored.pool addr = b ∧
        ∀ a, a ≠ addr → Memory.read stored.pool a = Memory.read s.pool a))

/-- A STOP completes: the bus is released, both lines with it, and a tracker is FREE. What follows is
what the STOP was given for: the next step, the wait of a PAUSE FREE or a POLL gap from 0, or the end of
the run with DONE after the implied STOP and with the outcome of the failure after that of a failed
byte. -/
def Obligations.StopReleasesTheBus : Prop :=
  ∀ (s : State) (p : PortId) (r : Run) (j : Job) (after : AfterStop), s.OnWire p r (.stop after) →
    s.RunsJob r j →
    let free : Run := { r with held := false }
    let released (r' : Run) : State := s.setPort p { s.port p with
      tracker := (s.port p).tracker.map (fun _ => .free), state := .running r'
      drive := Drive.released, stretch := 0 }
    (after = .step → exec (.stop p) s = .next ((released free).nextStep p free)) ∧
    (after = .pauseFree → exec (.stop p) s
      = .next (released { free with phase := .pauseFree, pauseCount := 0 })) ∧
    (after = .pollGap → exec (.stop p) s
      = .next (released { free with phase := .pollGap, pauseCount := 0 })) ∧
    (after = .implied → exec (.stop p) s = .next ((released free).finishRun p free .done .idle)) ∧
    (∀ o, after = .failed → j.run.outcome = some o →
      exec (.stop p) s = .next ((released free).finishRun p free o .idle))

/-- A run with its stopping field set acts on it at its next stop point. After a START, or after the ninth
bit of an address byte or a data byte, it goes to its STOP at the current position, a byte that was
acknowledged or received being counted first, a byte that was sent being recorded and a received byte being
NAKed (log 30); bits before the ninth go on as ever. At the beginning of a STOP both lines are shown low
(log 29: DESIGN CHOICE, DEDUCED). When a STOP completes, whatever it was given for, the run ends CANCELLED,
at the position written before where there is one. -/
def Obligations.ASetStoppingFieldEndsTheRun : Prop :=
  ∀ (s : State) (p : PortId) (r : Run) (j : Job), s.job? r.slot = some j → j.state = .active →
    j.stopping = true →
    let x := s.port p
    let stops (u : State) (r' : Run) : State := u.setPort p { u.port p with
      state := .running { r' with phase := .stop .stopping }, drive := Drive.bothLow, stretch := 0 }
    let withRecord (run : RunRecord) : State := { s with
      slots := s.slots.set r.slot (some { j with run := run }) }
    let here : RunRecord :=
      { j.run with failStep := j.run.curStep, failByte := j.run.curByte }
    (∀ b bits, s.Sends r j b → s.OnWire p r r.phase → r.held = true → bits ≠ [] →
      let all := r.bits ++ bits
      let between : Run := { r with bits := [] }
      let c : Instr := match r.phase with
        | .address => .address p bits
        | .poll => .poll p bits
        | _ => .write p bits
      let ack : Bool := all[8]? == some false
      x.Wins r.bits.length all (fun k => k < 8 ∧ b.getLsbD (7 - k) = true) →
      (all.length < 9 → exec c s = .next (s.setPort p (x.withBits r all (pullsSent b)))) ∧
      (all.length = 9 → exec c s = .next (stops
        ((withRecord here).setPort p { x.withBits r all (pullsSent b) with sent := some b })
        { between with
          committed := r.committed || ack
          writeCursor := if r.phase = .write ∧ ack = true then r.writeCursor + 1
            else r.writeCursor }))) ∧
    (∀ b bits, r.held = true → s.OnWire p r .read → bits ≠ [] →
      let all := r.bits ++ bits
      (∀ k, k < 8 → k < all.length → all[k]? = some (b.getLsbD (7 - k))) →
      x.Wins r.bits.length all (fun k => k = 8) →
      let eighth : Prop := r.bits.length < 8 ∧ 8 ≤ all.length
      let received := if eighth then r.readCursor + 1 else j.run.received
      let pool := if eighth then Memory.write s.pool
        (poolAddr j.blocks (j.writeLen + r.readCursor)) b else s.pool
      let r' : Run := { r with readCursor := if eighth then r.readCursor + 1 else r.readCursor }
      (all.length < 9 → exec (.read p bits) s = .next (State.setPort
        { withRecord { j.run with received := received } with pool := pool }
        p (x.withBits r' all (pullsGiven true)))) ∧
      (all.length = 9 → exec (.read p bits) s = .next (stops (State.setPort
        { withRecord { here with received := received } with pool := pool }
        p { x.withBits r' all (pullsGiven true) with gave := some .nak }) { r' with bits := [] }))) ∧
    (∀ st l, s.OnWire p r .start → j.steps[j.run.curStep]? = some st →
      let stopped : State := stops ((withRecord { here with
          startTime := if r.started then j.run.startTime else s.time }).trackStart p)
        { r with held := true, started := true }
      (r.held = true → exec (.start ⟨p, l⟩) s = .next stopped) ∧
      (r.held = false → l.scl = true → l.sda = true → (∀ n, (s.port p).tracker ≠ some (.busy n)) →
        exec (.start ⟨p, l⟩) s = .next (stopped.readLines p l))) ∧
    (∀ after, s.OnWire p r (.stop after) → exec (.stop p) s
      = .next ((((withRecord
          (if after = .failed ∨ after = .stopping then j.run else here)).trackFree p).setPort p
          { (s.trackFree p).port p with
            state := .running { r with held := false }, drive := Drive.released, stretch := 0 }
        ).finishRun p { r with held := false } .cancelled .idle))

/-- The waits of a run end at their count of tick increments: a POLL gap of 64 times its argument goes
to the START of the next attempt, and a PAUSE to the next step. Before that count is reached the run
waits on. -/
def Obligations.WaitsEndAtTheirCount : Prop :=
  ∀ (s : State) (p : PortId) (r : Run) (j : Job), s.Quiet → (s.port p).state = .running r →
    s.job? r.slot = some j →
    (∀ target limit gap, r.phase = .pollGap →
      j.steps[j.run.curStep]? = some (.poll target limit gap) →
      exec (.pollGapEnd p) s = .next (if gap * 64 ≤ r.pauseCount
        then s.setPort p { s.port p with
          state := .running { r with phase := .start, attempts := r.attempts + 1 }
          drive := if r.held then Drive.holding else Drive.released, stretch := 0 }
        else s)) ∧
    (∀ n, r.phase = .pauseHold → j.steps[j.run.curStep]? = some (.pause .hold n) →
      exec (.pauseHoldEnd p) s = .next (if n ≤ r.pauseCount then s.nextStep p r else s)) ∧
    (∀ n, r.phase = .pauseFree → j.steps[j.run.curStep]? = some (.pause .free n) →
      exec (.pauseFreeEnd p) s = .next (if n ≤ r.pauseCount then s.nextStep p r else s))

/-- SCL low for the stretch limit. A run that holds the bus ends STALLED at the current position, or
CANCELLED with its stopping field set, and the port begins a recovery of origin RUN; a read byte counts
where its eighth bit had been taken (`received`, O48). In a recovery, the recovery fails. Below the limit
nothing happens, but that bits of the byte in progress that come with the command are taken, as by the row
of that byte (log 7: the model's choice). -/
def Obligations.AStretchTimeoutStallsTheRun : Prop :=
  ∀ (s : State) (p : PortId), s.Quiet →
    ((s.port p).stretch < (s.port p).settings.stretchLimit.toNat →
      exec (.stretchTimeout p []) s = .next s ∧ s.TakesBitsFirst p (.stretchTimeout p)) ∧
    ((s.port p).settings.stretchLimit.toNat ≤ (s.port p).stretch → ∀ bits : List Bool,
      (∀ o n, (s.port p).state = .recovering o n →
        exec (.stretchTimeout p bits) s = .next (
          let stuck := s.setPort p { s.port p with
            state := .stuck 0, drive := Drive.released, stretch := 0 }
          if o = .stuck then stuck else stuck.askNotice (.port p))) ∧
      (∀ r j, (s.port p).state = .running r → s.job? r.slot = some j → r.held = true →
        r.phase ∈ [.start, .address, .poll, .write, .read] ∨
          (∃ after, r.phase = .stop after) →
        let here : Prop := r.phase ≠ .stop .failed ∧ r.phase ≠ .stop .stopping
        let stalled : State := ({ s with
            slots := s.slots.set r.slot (some { j with run := { j.run with
              failStep := if here then j.run.curStep else j.run.failStep
              failByte := if here then j.run.curByte else j.run.failByte } }) } : State).finishRun p r
          (if j.stopping then .cancelled else .stalled) (.recovering .run .release)
        exec (.stretchTimeout p bits) s = .next stalled))

/-- Arbitration is lost only by a RUNNING SHARED port, at a 1 bit of the address or write byte it is sending,
at the NAK of a read byte, whose eight bits have been read, in a repeated START or in a STOP (log 7, log 23:
DEDUCED); anywhere else the command has no effect. A bit that reads low there is not taken by the row of the
byte. The run ends CANCELLED with its stopping field set, in the STOP after a failure with that failure's
outcome, and else ARB_LOST_PARTIAL where it is committed; uncommitted, it is handed back to the head of the
list with one retry used, and ends ARB_LOST where none is left. Both lines are released. Bits of the byte in
progress that come with the command are taken first, as by the row of that byte (log 7: the model's
choice). -/
def Obligations.ArbitrationLossEndsOrRetriesTheRun : Prop :=
  (∀ (s : State) (p : PortId), s.Quiet → s.TakesBitsFirst p (.arbitrationLoss p)) ∧
  (∀ (s : State) (p : PortId), s.Quiet → s.stretchDue p = false →
    (∀ r, (s.port p).state ≠ .running r) → exec (.arbitrationLoss p []) s = .next s) ∧
  ∀ (s : State) (p : PortId) (r : Run) (j : Job), (s.port p).state = .running r →
    s.job? r.slot = some j →
    (s.Quiet → s.stretchDue p = false →
      let k := r.bits.length
      ((s.port p).settings.mode ≠ .shared ∨
        (∃ b, s.Sends r j b ∧ (8 ≤ k ∨ b.getLsbD (7 - k) = false)) ∨
        (r.phase = .read ∧ (k ≠ 8 ∨ j.readNak = false)) ∨
        (r.phase = .start ∧ r.held = false) ∨
        r.phase = .runStart ∨ r.phase = .pollGap ∨ r.phase = .pauseHold ∨ r.phase = .pauseFree →
        exec (.arbitrationLoss p []) s = .next s) ∧
      ((s.port p).settings.mode = .shared →
        (∃ b, s.Sends r j b ∧ k < 8 ∧ b.getLsbD (7 - k) = true) ∨
          (r.phase = .read ∧ k = 8 ∧ j.readNak = true) ∨ (r.phase = .start ∧ r.held = true) ∨
          (∃ after, r.phase = .stop after) →
        exec (.arbitrationLoss p []) s = .next (s.loseArbitration p r)) ∧
      ((s.port p).settings.mode = .shared → ∀ before after : List Bool,
        let n := (r.bits ++ before).length
        let stands (c : List Bool → Instr) : Prop :=
          exec (c (before ++ false :: after)) s = exec (c before) s
        (∀ b, s.Sends r j b → n < 8 → b.getLsbD (7 - n) = true →
          stands (.address p) ∧ stands (.poll p) ∧ stands (.write p)) ∧
        (r.phase = .read → n = 8 → j.readNak = true → stands (.read p)))) ∧
    (let here : Job := { j with run := { j.run with
        failStep := j.run.curStep, failByte := j.run.curByte } }
      let ended (x : Job) (o : JobOutcome) : Prop := s.loseArbitration p r =
        ({ s with slots := s.slots.set r.slot (some x) } : State).finishRun p r o .idle
      let afterFailure : Prop := r.phase = .stop .stopping ∨ r.phase = .stop .failed
      (j.stopping = true → afterFailure → ended j .cancelled) ∧
      (j.stopping = true → ¬afterFailure → ended here .cancelled) ∧
      (∀ o, j.stopping = false → r.phase = .stop .failed → j.run.outcome = some o → ended j o) ∧
      (j.stopping = false → ¬afterFailure →
        (r.committed = true → ended here .arbLostPartial) ∧
        (r.committed = false → j.retriesLeft = 0 → ended here .arbLost) ∧
        (r.committed = false → 0 < j.retriesLeft →
          s.loseArbitration p r = ({ s with slots := s.slots.set r.slot (some { j with
              state := .ready
              retriesLeft := j.retriesLeft - 1
              run := { j.run with retriesUsed := j.run.retriesUsed + 1 } }) } : State).setPort p
            { s.port p with
              ready := r.slot :: (s.port p).ready, state := .idle
              drive := Drive.released, stretch := 0 })))

/-! ## The laws -/

/-- The state after reset satisfies every law. -/
def Obligations.ResetSatisfiesTheLaws : Prop :=
  State.reset.PoolLaw ∧ State.reset.PinLaw ∧ State.reset.DriveLaw ∧ State.reset.BitLaw ∧
    State.reset.CaptureLaw ∧ State.reset.LinkLaw ∧ State.reset.QueueLaw ∧ State.reset.NoticeLaw ∧ State.reset.TableLaw ∧
    State.reset.DispatchLaw ∧ State.reset.HeldLaw

/-- Every step keeps the pool in canonical form (log 12), keeps port B and the edge settings of EV6 and
EV7 from sharing the two pins, keeps a port's lines released wherever it gives no transfer and no pulse
or STOP of a recovery (log 29: DESIGN CHOICE, DEDUCED), keeps fewer than nine bits of a byte in progress and
none where a run stands in no byte (log 7), keeps every capture record's count, held and
content in agreement, and keeps the transmit queue within its four places, content waiting for room only
behind a full queue or a RESET, the hold limit in range, and a pending RESET's OK reply last in the
queue. No step leaves an act that comes before the time base's event in hand (`ahead`, log 4). -/
def Obligations.EveryStepKeepsPoolLinesAndLink : Prop :=
  ∀ s t : State, step s = .next t →
    (s.PoolLaw → t.PoolLaw) ∧ (s.PinLaw → t.PinLaw) ∧ (s.DriveLaw → t.DriveLaw) ∧
    (s.BitLaw → t.BitLaw) ∧ (s.CaptureLaw → t.CaptureLaw) ∧ (s.LinkLaw → t.LinkLaw) ∧
    (s.tick.ahead = false → t.tick.ahead = false)

/-- Every step keeps queued reports and reservations within the 48 places, the reservation count equal
to the reservations the live jobs hold, and the room at 0 while a notice is owed. -/
def Obligations.EveryStepKeepsTheReportQueue : Prop :=
  ∀ s t : State, s.QueueLaw → step s = .next t → t.QueueLaw

/-- Every step keeps each source's notice state in agreement with the owed list and the queued
notices: at most one notice of a source is owed or queued. -/
def Obligations.EveryStepKeepsTheNotices : Prop :=
  ∀ s t : State, s.NoticeLaw → step s = .next t → t.NoticeLaw

/-- Every step keeps the live tags distinct and every job's blocks its own, and with the free blocks
they make up the pool's 64. -/
def Obligations.EveryStepKeepsTheJobTable : Prop :=
  (∀ s t : State, s.TableLaw → step s = .next t → t.TableLaw) ∧
  (∀ s : State, s.TableLaw → s.heldBlocks.length + s.freeBlocks.length = 64)

/-- Every step keeps the ready lists holding exactly the READY jobs of their ports, a port RUNNING
exactly while it has one ACTIVE job, and every job's reservations in agreement with its state. -/
def Obligations.EveryStepKeepsTheDispatcher : Prop :=
  ∀ s t : State, s.DispatchLaw → step s = .next t → t.DispatchLaw

/-- In states that satisfy the table's law, every step keeps the held-reply slot HELD exactly while the
job it names has its reply held, a NOW job of a port that is READY or ACTIVE. -/
def Obligations.EveryStepKeepsTheHeldReply : Prop :=
  ∀ s t : State, s.TableLaw → s.HeldLaw → step s = .next t → t.HeldLaw
end

