-- ==== Sys2Proof/Laws/State.lean ====
section
/-! SUPPORT. One lemma per field per update of State, and how the accessors of Ops.lean see each update.
-/

namespace Sys2Proof.Machine

/-! ### setJob -/

@[simp] theorem State.setJob_pending (s : State) (slot : Nat) (j : Job) :
    (s.setJob slot j).pending = s.pending := rfl
@[simp] theorem State.setJob_slots (s : State) (slot : Nat) (j : Job) :
    (s.setJob slot j).slots = s.slots.set slot (some j) := rfl
@[simp] theorem State.setJob_counter (s : State) (slot : Nat) (j : Job) :
    (s.setJob slot j).counter = s.counter := rfl
@[simp] theorem State.setJob_pool (s : State) (slot : Nat) (j : Job) :
    (s.setJob slot j).pool = s.pool := rfl
@[simp] theorem State.setJob_time (s : State) (slot : Nat) (j : Job) :
    (s.setJob slot j).time = s.time := rfl
@[simp] theorem State.setJob_timeSet (s : State) (slot : Nat) (j : Job) :
    (s.setJob slot j).timeSet = s.timeSet := rfl
@[simp] theorem State.setJob_lines (s : State) (slot : Nat) (j : Job) :
    (s.setJob slot j).lines = s.lines := rfl
@[simp] theorem State.setJob_tick (s : State) (slot : Nat) (j : Job) :
    (s.setJob slot j).tick = s.tick := rfl
@[simp] theorem State.setJob_pins (s : State) (slot : Nat) (j : Job) :
    (s.setJob slot j).pins = s.pins := rfl
@[simp] theorem State.setJob_portA (s : State) (slot : Nat) (j : Job) :
    (s.setJob slot j).portA = s.portA := rfl
@[simp] theorem State.setJob_portB (s : State) (slot : Nat) (j : Job) :
    (s.setJob slot j).portB = s.portB := rfl
@[simp] theorem State.setJob_reports (s : State) (slot : Nat) (j : Job) :
    (s.setJob slot j).reports = s.reports := rfl
@[simp] theorem State.setJob_link (s : State) (slot : Nat) (j : Job) :
    (s.setJob slot j).link = s.link := rfl

/-! ### clearSlot -/

@[simp] theorem State.clearSlot_pending (s : State) (slot : Nat) :
    (s.clearSlot slot).pending = s.pending := rfl
@[simp] theorem State.clearSlot_slots (s : State) (slot : Nat) :
    (s.clearSlot slot).slots = s.slots.set slot none := rfl
@[simp] theorem State.clearSlot_counter (s : State) (slot : Nat) :
    (s.clearSlot slot).counter = s.counter := rfl
@[simp] theorem State.clearSlot_pool (s : State) (slot : Nat) :
    (s.clearSlot slot).pool = s.pool := rfl
@[simp] theorem State.clearSlot_time (s : State) (slot : Nat) :
    (s.clearSlot slot).time = s.time := rfl
@[simp] theorem State.clearSlot_timeSet (s : State) (slot : Nat) :
    (s.clearSlot slot).timeSet = s.timeSet := rfl
@[simp] theorem State.clearSlot_lines (s : State) (slot : Nat) :
    (s.clearSlot slot).lines = s.lines := rfl
@[simp] theorem State.clearSlot_tick (s : State) (slot : Nat) :
    (s.clearSlot slot).tick = s.tick := rfl
@[simp] theorem State.clearSlot_pins (s : State) (slot : Nat) :
    (s.clearSlot slot).pins = s.pins := rfl
@[simp] theorem State.clearSlot_portA (s : State) (slot : Nat) :
    (s.clearSlot slot).portA = s.portA := rfl
@[simp] theorem State.clearSlot_portB (s : State) (slot : Nat) :
    (s.clearSlot slot).portB = s.portB := rfl
@[simp] theorem State.clearSlot_reports (s : State) (slot : Nat) :
    (s.clearSlot slot).reports = s.reports := rfl
@[simp] theorem State.clearSlot_link (s : State) (slot : Nat) :
    (s.clearSlot slot).link = s.link := rfl

/-! ### setLine -/

@[simp] theorem State.setLine_pending (s : State) (n : Nat) (l : Line) :
    (s.setLine n l).pending = s.pending := rfl
@[simp] theorem State.setLine_slots (s : State) (n : Nat) (l : Line) :
    (s.setLine n l).slots = s.slots := rfl
@[simp] theorem State.setLine_counter (s : State) (n : Nat) (l : Line) :
    (s.setLine n l).counter = s.counter := rfl
@[simp] theorem State.setLine_pool (s : State) (n : Nat) (l : Line) :
    (s.setLine n l).pool = s.pool := rfl
@[simp] theorem State.setLine_time (s : State) (n : Nat) (l : Line) :
    (s.setLine n l).time = s.time := rfl
@[simp] theorem State.setLine_timeSet (s : State) (n : Nat) (l : Line) :
    (s.setLine n l).timeSet = s.timeSet := rfl
@[simp] theorem State.setLine_lines (s : State) (n : Nat) (l : Line) :
    (s.setLine n l).lines = s.lines.set n l := rfl
@[simp] theorem State.setLine_tick (s : State) (n : Nat) (l : Line) :
    (s.setLine n l).tick = s.tick := rfl
@[simp] theorem State.setLine_pins (s : State) (n : Nat) (l : Line) :
    (s.setLine n l).pins = s.pins := rfl
@[simp] theorem State.setLine_portA (s : State) (n : Nat) (l : Line) :
    (s.setLine n l).portA = s.portA := rfl
@[simp] theorem State.setLine_portB (s : State) (n : Nat) (l : Line) :
    (s.setLine n l).portB = s.portB := rfl
@[simp] theorem State.setLine_reports (s : State) (n : Nat) (l : Line) :
    (s.setLine n l).reports = s.reports := rfl
@[simp] theorem State.setLine_link (s : State) (n : Nat) (l : Line) :
    (s.setLine n l).link = s.link := rfl

/-! ### setReports -/

@[simp] theorem State.setReports_pending (s : State) (q : ReportQueue) :
    (s.setReports q).pending = s.pending := rfl
@[simp] theorem State.setReports_slots (s : State) (q : ReportQueue) :
    (s.setReports q).slots = s.slots := rfl
@[simp] theorem State.setReports_counter (s : State) (q : ReportQueue) :
    (s.setReports q).counter = s.counter := rfl
@[simp] theorem State.setReports_pool (s : State) (q : ReportQueue) :
    (s.setReports q).pool = s.pool := rfl
@[simp] theorem State.setReports_time (s : State) (q : ReportQueue) :
    (s.setReports q).time = s.time := rfl
@[simp] theorem State.setReports_timeSet (s : State) (q : ReportQueue) :
    (s.setReports q).timeSet = s.timeSet := rfl
@[simp] theorem State.setReports_lines (s : State) (q : ReportQueue) :
    (s.setReports q).lines = s.lines := rfl
@[simp] theorem State.setReports_tick (s : State) (q : ReportQueue) :
    (s.setReports q).tick = s.tick := rfl
@[simp] theorem State.setReports_pins (s : State) (q : ReportQueue) :
    (s.setReports q).pins = s.pins := rfl
@[simp] theorem State.setReports_portA (s : State) (q : ReportQueue) :
    (s.setReports q).portA = s.portA := rfl
@[simp] theorem State.setReports_portB (s : State) (q : ReportQueue) :
    (s.setReports q).portB = s.portB := rfl
@[simp] theorem State.setReports_reports (s : State) (q : ReportQueue) :
    (s.setReports q).reports = q := rfl
@[simp] theorem State.setReports_link (s : State) (q : ReportQueue) :
    (s.setReports q).link = s.link := rfl

/-! ### setLink -/

@[simp] theorem State.setLink_pending (s : State) (l : Link) :
    (s.setLink l).pending = s.pending := rfl
@[simp] theorem State.setLink_slots (s : State) (l : Link) :
    (s.setLink l).slots = s.slots := rfl
@[simp] theorem State.setLink_counter (s : State) (l : Link) :
    (s.setLink l).counter = s.counter := rfl
@[simp] theorem State.setLink_pool (s : State) (l : Link) :
    (s.setLink l).pool = s.pool := rfl
@[simp] theorem State.setLink_time (s : State) (l : Link) :
    (s.setLink l).time = s.time := rfl
@[simp] theorem State.setLink_timeSet (s : State) (l : Link) :
    (s.setLink l).timeSet = s.timeSet := rfl
@[simp] theorem State.setLink_lines (s : State) (l : Link) :
    (s.setLink l).lines = s.lines := rfl
@[simp] theorem State.setLink_tick (s : State) (l : Link) :
    (s.setLink l).tick = s.tick := rfl
@[simp] theorem State.setLink_pins (s : State) (l : Link) :
    (s.setLink l).pins = s.pins := rfl
@[simp] theorem State.setLink_portA (s : State) (l : Link) :
    (s.setLink l).portA = s.portA := rfl
@[simp] theorem State.setLink_portB (s : State) (l : Link) :
    (s.setLink l).portB = s.portB := rfl
@[simp] theorem State.setLink_reports (s : State) (l : Link) :
    (s.setLink l).reports = s.reports := rfl
@[simp] theorem State.setLink_link (s : State) (l : Link) :
    (s.setLink l).link = l := rfl

/-! ### setTick -/

@[simp] theorem State.setTick_pending (s : State) (w : TickWork) :
    (s.setTick w).pending = s.pending := rfl
@[simp] theorem State.setTick_slots (s : State) (w : TickWork) :
    (s.setTick w).slots = s.slots := rfl
@[simp] theorem State.setTick_counter (s : State) (w : TickWork) :
    (s.setTick w).counter = s.counter := rfl
@[simp] theorem State.setTick_pool (s : State) (w : TickWork) :
    (s.setTick w).pool = s.pool := rfl
@[simp] theorem State.setTick_time (s : State) (w : TickWork) :
    (s.setTick w).time = s.time := rfl
@[simp] theorem State.setTick_timeSet (s : State) (w : TickWork) :
    (s.setTick w).timeSet = s.timeSet := rfl
@[simp] theorem State.setTick_lines (s : State) (w : TickWork) :
    (s.setTick w).lines = s.lines := rfl
@[simp] theorem State.setTick_tick (s : State) (w : TickWork) :
    (s.setTick w).tick = w := rfl
@[simp] theorem State.setTick_pins (s : State) (w : TickWork) :
    (s.setTick w).pins = s.pins := rfl
@[simp] theorem State.setTick_portA (s : State) (w : TickWork) :
    (s.setTick w).portA = s.portA := rfl
@[simp] theorem State.setTick_portB (s : State) (w : TickWork) :
    (s.setTick w).portB = s.portB := rfl
@[simp] theorem State.setTick_reports (s : State) (w : TickWork) :
    (s.setTick w).reports = s.reports := rfl
@[simp] theorem State.setTick_link (s : State) (w : TickWork) :
    (s.setTick w).link = s.link := rfl

/-! ### setPool -/

@[simp] theorem State.setPool_pending (s : State) (m : List Host.Cell) :
    (s.setPool m).pending = s.pending := rfl
@[simp] theorem State.setPool_slots (s : State) (m : List Host.Cell) :
    (s.setPool m).slots = s.slots := rfl
@[simp] theorem State.setPool_counter (s : State) (m : List Host.Cell) :
    (s.setPool m).counter = s.counter := rfl
@[simp] theorem State.setPool_pool (s : State) (m : List Host.Cell) :
    (s.setPool m).pool = m := rfl
@[simp] theorem State.setPool_time (s : State) (m : List Host.Cell) :
    (s.setPool m).time = s.time := rfl
@[simp] theorem State.setPool_timeSet (s : State) (m : List Host.Cell) :
    (s.setPool m).timeSet = s.timeSet := rfl
@[simp] theorem State.setPool_lines (s : State) (m : List Host.Cell) :
    (s.setPool m).lines = s.lines := rfl
@[simp] theorem State.setPool_tick (s : State) (m : List Host.Cell) :
    (s.setPool m).tick = s.tick := rfl
@[simp] theorem State.setPool_pins (s : State) (m : List Host.Cell) :
    (s.setPool m).pins = s.pins := rfl
@[simp] theorem State.setPool_portA (s : State) (m : List Host.Cell) :
    (s.setPool m).portA = s.portA := rfl
@[simp] theorem State.setPool_portB (s : State) (m : List Host.Cell) :
    (s.setPool m).portB = s.portB := rfl
@[simp] theorem State.setPool_reports (s : State) (m : List Host.Cell) :
    (s.setPool m).reports = s.reports := rfl
@[simp] theorem State.setPool_link (s : State) (m : List Host.Cell) :
    (s.setPool m).link = s.link := rfl

/-! ### setPort -/

@[simp] theorem State.setPort_pending (s : State) (p : PortId) (x : Port) :
    (s.setPort p x).pending = s.pending := by cases p <;> rfl
@[simp] theorem State.setPort_slots (s : State) (p : PortId) (x : Port) :
    (s.setPort p x).slots = s.slots := by cases p <;> rfl
@[simp] theorem State.setPort_counter (s : State) (p : PortId) (x : Port) :
    (s.setPort p x).counter = s.counter := by cases p <;> rfl
@[simp] theorem State.setPort_pool (s : State) (p : PortId) (x : Port) :
    (s.setPort p x).pool = s.pool := by cases p <;> rfl
@[simp] theorem State.setPort_time (s : State) (p : PortId) (x : Port) :
    (s.setPort p x).time = s.time := by cases p <;> rfl
@[simp] theorem State.setPort_timeSet (s : State) (p : PortId) (x : Port) :
    (s.setPort p x).timeSet = s.timeSet := by cases p <;> rfl
@[simp] theorem State.setPort_lines (s : State) (p : PortId) (x : Port) :
    (s.setPort p x).lines = s.lines := by cases p <;> rfl
@[simp] theorem State.setPort_tick (s : State) (p : PortId) (x : Port) :
    (s.setPort p x).tick = s.tick := by cases p <;> rfl
@[simp] theorem State.setPort_pins (s : State) (p : PortId) (x : Port) :
    (s.setPort p x).pins = s.pins := by cases p <;> rfl
@[simp] theorem State.setPort_reports (s : State) (p : PortId) (x : Port) :
    (s.setPort p x).reports = s.reports := by cases p <;> rfl
@[simp] theorem State.setPort_link (s : State) (p : PortId) (x : Port) :
    (s.setPort p x).link = s.link := by cases p <;> rfl

@[simp] theorem State.setPort_port_same (s : State) (p : PortId) (x : Port) :
    (s.setPort p x).port p = x := by cases p <;> rfl

theorem State.setPort_port_other (s : State) {p q : PortId} (x : Port) (h : q ≠ p) :
    (s.setPort p x).port q = s.port q := by
  cases p <;> cases q <;> first | rfl | exact absurd rfl h

@[simp] theorem State.setPort_setPort (s : State) (p : PortId) (x y : Port) :
    (s.setPort p x).setPort p y = s.setPort p y := by cases p <;> rfl

@[simp] theorem State.setPort_port_self (s : State) (p : PortId) : s.setPort p (s.port p) = s := by
  cases p <;> rfl

/-! ### The accessors -/

@[simp] theorem State.port_setJob (s : State) (slot : Nat) (j : Job) (p : PortId) :
    (s.setJob slot j).port p = s.port p := by cases p <;> rfl
@[simp] theorem State.line_setJob (s : State) (slot : Nat) (j : Job) (i : Nat) :
    (s.setJob slot j).line i = s.line i := rfl
@[simp] theorem State.port_clearSlot (s : State) (slot : Nat) (p : PortId) :
    (s.clearSlot slot).port p = s.port p := by cases p <;> rfl
@[simp] theorem State.line_clearSlot (s : State) (slot : Nat) (i : Nat) :
    (s.clearSlot slot).line i = s.line i := rfl
@[simp] theorem State.port_setLine (s : State) (n : Nat) (l : Line) (p : PortId) :
    (s.setLine n l).port p = s.port p := by cases p <;> rfl
@[simp] theorem State.job_setLine (s : State) (n : Nat) (l : Line) (i : Nat) :
    (s.setLine n l).job? i = s.job? i := rfl
@[simp] theorem State.port_setReports (s : State) (q : ReportQueue) (p : PortId) :
    (s.setReports q).port p = s.port p := by cases p <;> rfl
@[simp] theorem State.job_setReports (s : State) (q : ReportQueue) (i : Nat) :
    (s.setReports q).job? i = s.job? i := rfl
@[simp] theorem State.line_setReports (s : State) (q : ReportQueue) (i : Nat) :
    (s.setReports q).line i = s.line i := rfl
@[simp] theorem State.port_setLink (s : State) (l : Link) (p : PortId) :
    (s.setLink l).port p = s.port p := by cases p <;> rfl
@[simp] theorem State.job_setLink (s : State) (l : Link) (i : Nat) :
    (s.setLink l).job? i = s.job? i := rfl
@[simp] theorem State.line_setLink (s : State) (l : Link) (i : Nat) :
    (s.setLink l).line i = s.line i := rfl
@[simp] theorem State.port_setTick (s : State) (w : TickWork) (p : PortId) :
    (s.setTick w).port p = s.port p := by cases p <;> rfl
@[simp] theorem State.job_setTick (s : State) (w : TickWork) (i : Nat) :
    (s.setTick w).job? i = s.job? i := rfl
@[simp] theorem State.line_setTick (s : State) (w : TickWork) (i : Nat) :
    (s.setTick w).line i = s.line i := rfl
@[simp] theorem State.port_setPool (s : State) (m : List Host.Cell) (p : PortId) :
    (s.setPool m).port p = s.port p := by cases p <;> rfl
@[simp] theorem State.job_setPool (s : State) (m : List Host.Cell) (i : Nat) :
    (s.setPool m).job? i = s.job? i := rfl
@[simp] theorem State.line_setPool (s : State) (m : List Host.Cell) (i : Nat) :
    (s.setPool m).line i = s.line i := rfl
@[simp] theorem State.job_setPort (s : State) (p : PortId) (x : Port) (i : Nat) :
    (s.setPort p x).job? i = s.job? i := by cases p <;> rfl
@[simp] theorem State.line_setPort (s : State) (p : PortId) (x : Port) (i : Nat) :
    (s.setPort p x).line i = s.line i := by cases p <;> rfl

/-- A slot that holds a job is one of the slots there are. -/
theorem State.job_lt {s : State} {slot : Nat} {j : Job} (h : s.job? slot = some j) :
    slot < s.slots.length := by
  by_contra hn
  simp [State.job?, List.getD_eq_getElem?_getD, List.getElem?_eq_none (Nat.le_of_not_lt hn)] at h

@[simp] theorem State.job_setJob_other (s : State) {slot i : Nat} (j : Job) (h : i ≠ slot) :
    (s.setJob slot j).job? i = s.job? i := by
  simp [State.job?, List.getD_eq_getElem?_getD, List.getElem?_set_ne (Ne.symm h)]

theorem State.job_setJob_same (s : State) {slot : Nat} (j : Job) (h : slot < s.slots.length) :
    (s.setJob slot j).job? slot = some j := by
  simp [State.job?, List.getD_eq_getElem?_getD, h]

/-- A job put where it stands. -/
theorem State.setJob_self {s : State} {slot : Nat} {j : Job} (h : s.job? slot = some j) :
    s.setJob slot j = s := by
  have hl := State.job_lt h
  have e : s.slots.set slot (some j) = s.slots := by
    rw [← h]
    simp [State.job?, List.getD_eq_getElem?_getD, hl]
  simp [State.setJob, e]

@[simp] theorem State.job_clearSlot_other (s : State) {slot i : Nat} (h : i ≠ slot) :
    (s.clearSlot slot).job? i = s.job? i := by
  simp [State.job?, List.getD_eq_getElem?_getD, List.getElem?_set_ne (Ne.symm h)]

@[simp] theorem State.job_clearSlot_same (s : State) (slot : Nat) :
    (s.clearSlot slot).job? slot = none := by
  by_cases h : slot < s.slots.length <;>
    simp [State.job?, List.getD_eq_getElem?_getD, h]

theorem State.line_setLine_other (s : State) {n i : Nat} (l : Line) (h : i ≠ n) :
    (s.setLine n l).line i = s.line i := by
  simp [State.line, List.getD_eq_getElem?_getD, List.getElem?_set_ne (Ne.symm h)]

theorem State.line_setLine_same (s : State) {n : Nat} (l : Line) (h : n < s.lines.length) :
    (s.setLine n l).line n = l := by
  simp [State.line, List.getD_eq_getElem?_getD, h]

/-! ### An update twice -/

@[simp] theorem State.setTick_setTick (s : State) (v w : TickWork) :
    (s.setTick v).setTick w = s.setTick w := rfl
@[simp] theorem State.setReports_setReports (s : State) (v w : ReportQueue) :
    (s.setReports v).setReports w = s.setReports w := rfl
@[simp] theorem State.setLink_setLink (s : State) (v w : Link) :
    (s.setLink v).setLink w = s.setLink w := rfl

/-! ### When nothing of the increment is under way -/

/-- With no evaluation and no act of the event unit under way, a command acts on the state as it
stands. -/
theorem State.beforeEvent_of_done {s : State} (hv : s.tick.evals = []) (he : s.tick.edging = false) :
    s.beforeEvent = s := by
  simp [State.beforeEvent, State.finishEventIfBegun, State.finishTimeBase, he, hv]

/-- With no edge, no trigger and no notice request left, the event unit's act changes nothing. -/
theorem State.finishEventUnit_of_none {s : State} (h : s.tick = TickWork.none) :
    s.finishEventUnit = s := by
  have e : s.setTick TickWork.none = s := by rw [← h]; rfl
  simpa [State.finishEventUnit, State.closeEvents, detectEdges, fireEvents, askLines, h,
    TickWork.none] using e

theorem State.beforeEvent_of_none {s : State} (h : s.tick = TickWork.none) : s.beforeEvent = s :=
  State.beforeEvent_of_done (by rw [h]; rfl) (by rw [h]; rfl)

/-- A request that reads or sets what samples are judged by follows the event unit's act. -/
theorem State.beforeLineEvent_of_done {s : State} (hv : s.tick.evals = [])
    (he : s.tick.edging = false) : s.beforeLineEvent = s.finishEventUnit := by
  rw [State.beforeLineEvent, State.beforeEvent_of_done hv he]

theorem State.beforeWire_of_done {s : State} {p : PortId} (hv : s.tick.evals = [])
    (he : s.tick.edging = false) (hs : s.stretchDue p = false) : s.beforeWire p = s := by
  simp [State.beforeWire, State.beforeEvent_of_done hv he, State.forceStretch, hs]

/-- Between the acts of an increment a comparison tests against the time itself. -/
@[simp] theorem State.comparedTime_of_settled {s : State} (h : s.tick.ahead = false) :
    s.comparedTime = s.time := by
  simp [State.comparedTime, h]

end Sys2Proof.Machine
end

