-- ==== Sys2Proof/Laws/Ports.lean ====
section
/-! SUPPORT. What the shared operations of PortOps.lean and TickOps.lean on a port's state and on an
increment's work change, one lemma per field, and when an increment has nothing left. -/

namespace Sys2Proof.Machine

/-! ### setPortState -/

@[simp] theorem State.setPortState_pending (s : State) (p : PortId) (x : PortState) :
    (s.setPortState p x).pending = s.pending := by cases p <;> rfl
@[simp] theorem State.setPortState_slots (s : State) (p : PortId) (x : PortState) :
    (s.setPortState p x).slots = s.slots := by cases p <;> rfl
@[simp] theorem State.setPortState_counter (s : State) (p : PortId) (x : PortState) :
    (s.setPortState p x).counter = s.counter := by cases p <;> rfl
@[simp] theorem State.setPortState_pool (s : State) (p : PortId) (x : PortState) :
    (s.setPortState p x).pool = s.pool := by cases p <;> rfl
@[simp] theorem State.setPortState_time (s : State) (p : PortId) (x : PortState) :
    (s.setPortState p x).time = s.time := by cases p <;> rfl
@[simp] theorem State.setPortState_timeSet (s : State) (p : PortId) (x : PortState) :
    (s.setPortState p x).timeSet = s.timeSet := by cases p <;> rfl
@[simp] theorem State.setPortState_lines (s : State) (p : PortId) (x : PortState) :
    (s.setPortState p x).lines = s.lines := by cases p <;> rfl
@[simp] theorem State.setPortState_tick (s : State) (p : PortId) (x : PortState) :
    (s.setPortState p x).tick = s.tick := by cases p <;> rfl
@[simp] theorem State.setPortState_pins (s : State) (p : PortId) (x : PortState) :
    (s.setPortState p x).pins = s.pins := by cases p <;> rfl
@[simp] theorem State.setPortState_reports (s : State) (p : PortId) (x : PortState) :
    (s.setPortState p x).reports = s.reports := by cases p <;> rfl
@[simp] theorem State.setPortState_link (s : State) (p : PortId) (x : PortState) :
    (s.setPortState p x).link = s.link := by cases p <;> rfl

@[simp] theorem State.setPortState_port_same (s : State) (p : PortId) (x : PortState) :
    (s.setPortState p x).port p = { s.port p with state := x, drive := x.drive, stretch := 0 } := by
  cases p <;> rfl

theorem State.setPortState_port_other (s : State) {p q : PortId} (x : PortState) (h : q ≠ p) :
    (s.setPortState p x).port q = s.port q := State.setPort_port_other s _ h

@[simp] theorem State.job_setPortState (s : State) (p : PortId) (x : PortState) (i : Nat) :
    (s.setPortState p x).job? i = s.job? i := by cases p <;> rfl
@[simp] theorem State.line_setPortState (s : State) (p : PortId) (x : PortState) (i : Nat) :
    (s.setPortState p x).line i = s.line i := by cases p <;> rfl

/-- The run of a RUNNING port written. -/
theorem State.setRun_eq (s : State) (p : PortId) (r : Run) :
    s.setRun p r = s.setPort p { s.port p with state := .running r, drive := r.drive, stretch := 0 } :=
  rfl

/-! ### releaseBus -/

@[simp] theorem State.releaseBus_pending (s : State) (p : PortId) (r : Run) :
    (s.releaseBus p r).pending = s.pending := by cases p <;> rfl
@[simp] theorem State.releaseBus_slots (s : State) (p : PortId) (r : Run) :
    (s.releaseBus p r).slots = s.slots := by cases p <;> rfl
@[simp] theorem State.releaseBus_counter (s : State) (p : PortId) (r : Run) :
    (s.releaseBus p r).counter = s.counter := by cases p <;> rfl
@[simp] theorem State.releaseBus_pool (s : State) (p : PortId) (r : Run) :
    (s.releaseBus p r).pool = s.pool := by cases p <;> rfl
@[simp] theorem State.releaseBus_time (s : State) (p : PortId) (r : Run) :
    (s.releaseBus p r).time = s.time := by cases p <;> rfl
@[simp] theorem State.releaseBus_timeSet (s : State) (p : PortId) (r : Run) :
    (s.releaseBus p r).timeSet = s.timeSet := by cases p <;> rfl
@[simp] theorem State.releaseBus_lines (s : State) (p : PortId) (r : Run) :
    (s.releaseBus p r).lines = s.lines := by cases p <;> rfl
@[simp] theorem State.releaseBus_tick (s : State) (p : PortId) (r : Run) :
    (s.releaseBus p r).tick = s.tick := by cases p <;> rfl
@[simp] theorem State.releaseBus_pins (s : State) (p : PortId) (r : Run) :
    (s.releaseBus p r).pins = s.pins := by cases p <;> rfl
@[simp] theorem State.releaseBus_reports (s : State) (p : PortId) (r : Run) :
    (s.releaseBus p r).reports = s.reports := by cases p <;> rfl
@[simp] theorem State.releaseBus_link (s : State) (p : PortId) (r : Run) :
    (s.releaseBus p r).link = s.link := by cases p <;> rfl

@[simp] theorem State.releaseBus_port_same (s : State) (p : PortId) (r : Run) :
    (s.releaseBus p r).port p
      = { s.port p with state := .running r, drive := Drive.released, stretch := 0 } := by
  cases p <;> rfl
@[simp] theorem State.job_releaseBus (s : State) (p : PortId) (r : Run) (i : Nat) :
    (s.releaseBus p r).job? i = s.job? i := by cases p <;> rfl

/-! ### The byte on the bus -/

theorem State.sendByte_of {s : State} {p : PortId} {r : Run} {b : Byte} (h : s.byteToSend r = some b) :
    s.sendByte p r = s.setPort p { s.port p with sent := some b } := by
  simp only [State.sendByte, h]

theorem State.sendByte_none {s : State} {p : PortId} {r : Run} (h : s.byteToSend r = none) :
    s.sendByte p r = s := by
  simp only [State.sendByte, h]

/-- The byte a run is sending, by its phase: the address byte of an ADDRESS or POLL, the write data byte
at the write cursor. -/
theorem State.byteToSend_address {s : State} {r : Run} {j : Job} {st : Step} (hp : r.phase = .address)
    (hj : s.job? r.slot = some j) (hs : j.steps[j.run.curStep]? = some st) :
    s.byteToSend r = st.addressByte := by
  simp [State.byteToSend, hp, State.stepOf, hj, Job.curStep?, hs]

theorem State.byteToSend_poll {s : State} {r : Run} {j : Job} {st : Step} (hp : r.phase = .poll)
    (hj : s.job? r.slot = some j) (hs : j.steps[j.run.curStep]? = some st) :
    s.byteToSend r = st.addressByte := by
  simp [State.byteToSend, hp, State.stepOf, hj, Job.curStep?, hs]

theorem State.byteToSend_write {s : State} {r : Run} {j : Job} (hp : r.phase = .write)
    (hj : s.job? r.slot = some j) :
    s.byteToSend r = some (Memory.read s.pool (poolAddr j.blocks r.writeCursor)) := by
  simp [State.byteToSend, hp, hj, State.writeByteAt]

/-- The direction bit below the target: twice the target, plus 1 for R. -/
theorem Step.addressByte_address (target : BitVec 7) (d : Direction) :
    (Step.address target d).addressByte
      = some (BitVec.ofNat 8 (2 * target.toNat + match d with | .w => 0 | .r => 1)) := by
  cases d
  · exact congrArg some (by revert target; decide)
  · exact congrArg some (by revert target; decide)

theorem Step.addressByte_poll (target : BitVec 7) (limit gap : Nat) :
    (Step.poll target limit gap).addressByte = some (BitVec.ofNat 8 (2 * target.toNat)) :=
  congrArg some (by revert target; decide)

/-- The ninth bit given to a read byte: one field of the port. -/
theorem State.giveNinth_eq (s : State) (p : PortId) (nak : Bool) :
    s.giveNinth p nak = s.setPort p { s.port p with gave := some (if nak then .nak else .ack) } := rfl

@[simp] theorem State.job_giveNinth (s : State) (p : PortId) (nak : Bool) (i : Nat) :
    (s.giveNinth p nak).job? i = s.job? i := by simp [State.giveNinth]
@[simp] theorem State.giveNinth_pool (s : State) (p : PortId) (nak : Bool) :
    (s.giveNinth p nak).pool = s.pool := by simp [State.giveNinth]
@[simp] theorem State.giveNinth_port_same (s : State) (p : PortId) (nak : Bool) :
    (s.giveNinth p nak).port p = { s.port p with gave := some (if nak then .nak else .ack) } := by
  simp [State.giveNinth]

/-! ### The stages of a recovery -/

/-- Readings of SDA low count their pulses, up to nine. -/
theorem recoveryStages_low : ∀ (k n : Nat) (rest : List Bool), n + k ≤ 9 →
    recoveryStages n (List.replicate k false ++ rest) = recoveryStages (n + k) rest
  | 0, n, rest, _ => by simp
  | k + 1, n, rest, h => by
    have hn : ¬Config.recoveryPulses ≤ n := by show ¬9 ≤ n; omega
    have := recoveryStages_low k (n + 1) rest (by omega)
    simp only [List.replicate_succ, List.cons_append, recoveryStages, if_neg hn, this]
    congr 1
    omega

/-- A tenth low reading fails the recovery. -/
theorem recoveryStages_fails {k n : Nat} (rest : List Bool) (hn : n ≤ 9) (h : 10 ≤ n + k) :
    recoveryStages n (List.replicate k false ++ rest) = none := by
  obtain ⟨m, rfl⟩ : ∃ m, k = (9 - n) + (m + 1) := ⟨k - (9 - n) - 1, by omega⟩
  rw [List.replicate_add, List.append_assoc, recoveryStages_low _ _ _ (by omega)]
  have h9 : Config.recoveryPulses ≤ n + (9 - n) := by show 9 ≤ _; omega
  simp [List.replicate_succ, recoveryStages, h9]

@[simp] theorem RecoveryStage.after_nil (stage : RecoveryStage) : stage.after [] = some stage := rfl

@[simp] theorem RecoveryStage.after_stop (n : Nat) (sda : List Bool) :
    (RecoveryStage.stop n).after sda = some (.stop n) := by
  simp [RecoveryStage.after]

/-! ### The work of an increment -/

@[simp] theorem State.setEvals_pending (s : State) (l : List Nat) :
    (s.setEvals l).pending = s.pending := rfl
@[simp] theorem State.setEvals_slots (s : State) (l : List Nat) :
    (s.setEvals l).slots = s.slots := rfl
@[simp] theorem State.setEvals_counter (s : State) (l : List Nat) :
    (s.setEvals l).counter = s.counter := rfl
@[simp] theorem State.setEvals_pool (s : State) (l : List Nat) :
    (s.setEvals l).pool = s.pool := rfl
@[simp] theorem State.setEvals_time (s : State) (l : List Nat) :
    (s.setEvals l).time = s.time := rfl
@[simp] theorem State.setEvals_timeSet (s : State) (l : List Nat) :
    (s.setEvals l).timeSet = s.timeSet := rfl
@[simp] theorem State.setEvals_lines (s : State) (l : List Nat) :
    (s.setEvals l).lines = s.lines := rfl
@[simp] theorem State.setEvals_pins (s : State) (l : List Nat) :
    (s.setEvals l).pins = s.pins := rfl
@[simp] theorem State.setEvals_reports (s : State) (l : List Nat) :
    (s.setEvals l).reports = s.reports := rfl
@[simp] theorem State.setEvals_link (s : State) (l : List Nat) :
    (s.setEvals l).link = s.link := rfl
@[simp] theorem State.setEvals_tick (s : State) (l : List Nat) :
    (s.setEvals l).tick = { s.tick with evals := l } := rfl
@[simp] theorem State.port_setEvals (s : State) (l : List Nat) (p : PortId) :
    (s.setEvals l).port p = s.port p := by cases p <;> rfl
@[simp] theorem State.job_setEvals (s : State) (l : List Nat) (i : Nat) :
    (s.setEvals l).job? i = s.job? i := rfl
@[simp] theorem State.line_setEvals (s : State) (l : List Nat) (i : Nat) :
    (s.setEvals l).line i = s.line i := rfl

/-- The time base's event of an increment: the time rises and the jobs to evaluate are set. -/
theorem State.raiseTime_eq (s : State) : s.raiseTime =
    { s with time := s.time + 1, tick := { s.tick with evals := s.slotsToEvaluate } } := rfl

@[simp] theorem State.takeAct_eventUnit (s : State) : s.takeAct .eventUnit = s.finishEventUnit := rfl
@[simp] theorem State.takeAct_port (s : State) (p : PortId) :
    s.takeAct (.port p) = s.forcePort p := rfl
@[simp] theorem State.takeAct_dispatch (s : State) (p : PortId) :
    s.takeAct (.dispatch p) = s.dispatchPort p := rfl
@[simp] theorem State.takeAct_link (s : State) : s.takeAct .link = s.forceLink := rfl

/-- A dispatch that comes before the time base's event is the same act. -/
@[simp] theorem State.takeEarly_dispatch (s : State) (p : PortId) :
    s.takeEarly (.dispatch p) = s.dispatchPort p := rfl

/-- Any other act that comes before the time base's event carries the reading of the increment. -/
theorem State.takeEarly_other {act : TickAct} (s : State) (h : ∀ p, act ≠ .dispatch p) :
    s.takeEarly act =
      let t := State.takeAct { s with time := s.time + 1, tick := { s.tick with ahead := true } } act
      { t with time := s.time, tick := { t.tick with ahead := false } } := by
  cases act with
  | dispatch p => exact absurd rfl (h p)
  | eventUnit => rfl
  | port p => rfl
  | link => rfl

/-- A port none of whose counts has reached its limit does nothing. -/
theorem State.forcePort_of_nothingDue {s : State} {p : PortId}
    (hp : (s.port p).presenceDue = false) (hs : s.stretchDue p = false) (hw : s.forceWait p = s)
    (he : (s.port p).settleDue = false) (hr : (s.port p).recheckDue = false)
    (ht : (s.port p).trackerDue = false) : s.forcePort p = s := by
  simp [State.forcePort, State.forcePresence, State.forceStretch, State.forceCheck,
    State.forceTracker, hp, hs, hw, he, hr, ht]

/-- An increment of which nothing is left. -/
theorem State.finishTick_of_nothingDue {s : State} (h : s.tick = TickWork.none)
    (hp : ∀ p, s.forcePort p = s) (hl : s.forceLink = s) : s.finishTick = s := by
  simp [State.finishTick, State.beforeEvent_of_none h, State.finishEventUnit_of_none h, hp, hl]

end Sys2Proof.Machine
end

