-- ==== Sys2Proof/Laws/Bits.lean ====
section
/-! SUPPORT. Bits of a byte on a bus: what a port does with SDA in each, and what a list of them comes
to. -/

namespace Sys2Proof.Machine

/-! ### One byte -/

/-- A byte on a bus, the most significant bit first. -/
theorem byteOfReadings_of (b : Byte) :
    byteOfReadings [b.getLsbD 7, b.getLsbD 6, b.getLsbD 5, b.getLsbD 4, b.getLsbD 3, b.getLsbD 2,
      b.getLsbD 1, b.getLsbD 0] = b := by
  revert b
  decide

theorem pullsSent_length (b : Byte) : (pullsSent b).length = 9 := rfl

theorem pullsGiven_length (naked : Bool) : (pullsGiven naked).length = 9 := rfl

/-- What a port does with SDA in bit `k` of a byte it sends. -/
theorem pullsSent_get (b : Byte) {k : Nat} (h : k < 9) :
    (pullsSent b)[k]? = some (if k < 8 ∧ busBit b k = false then .low else .released) := by
  have : ∀ b : Byte, ∀ k < 9,
      (pullsSent b)[k]? = some (if k < 8 ∧ busBit b k = false then .low else .released) := by decide
  exact this b k h

theorem pullsGiven_get (naked : Bool) {k : Nat} (h : k < 9) :
    (pullsGiven naked)[k]? = some (if k < 8 ∨ naked = true then .released else .low) := by
  have : ∀ naked : Bool, ∀ k < 9,
      (pullsGiven naked)[k]? = some (if k < 8 ∨ naked = true then .released else .low) := by decide
  exact this naked k h

/-! ### Bits taken one after another -/

theorem State.run_of {s : State} {p : PortId} {r : Run} (h : (s.port p).state = .running r) :
    s.run? p = some r := by
  simp [State.run?, h]

@[simp] theorem Port.withBits_settings (x : Port) (r : Run) (all : List Bool) (acts : List Pull) :
    (x.withBits r all acts).settings = x.settings := rfl
@[simp] theorem Port.withBits_state (x : Port) (r : Run) (all : List Bool) (acts : List Pull) :
    (x.withBits r all acts).state = .running { r with bits := all } := rfl

/-- The next bits extend what the bit before them came to. -/
theorem Port.withBits_withBits (x : Port) (r r' : Run) (high : Bool) (bits : List Bool)
    (acts : List Pull) (hr : r'.bits = r.bits ++ [high]) :
    (x.withBits r (r.bits ++ [high]) acts).withBits r' (r.bits ++ [high] ++ bits) acts
      = x.withBits { r' with bits := r.bits } (r.bits ++ [high] ++ bits) acts := by
  have h : (acts.take (r.bits.length + 1)).drop r.bits.length
        ++ (acts.take (r.bits.length + 1 + bits.length)).drop (r.bits.length + 1)
      = (acts.take (r.bits.length + 1 + bits.length)).drop r.bits.length := by
    have e : acts.take (r.bits.length + 1 + bits.length) = acts.take (r.bits.length + 1)
        ++ (acts.take (r.bits.length + 1 + bits.length)).drop (r.bits.length + 1) := by
      conv_lhs => rw [← List.take_append_drop (r.bits.length + 1)
        (acts.take (r.bits.length + 1 + bits.length))]
      rw [List.take_take, Nat.min_eq_left (by omega)]
    by_cases hl : r.bits.length ≤ (acts.take (r.bits.length + 1)).length
    · conv_rhs => rw [e]
      rw [List.drop_append_of_le_length hl]
    · have : acts.length < r.bits.length := by
        simp only [List.length_take] at hl
        omega
      rw [List.drop_eq_nil_of_le (by simp; omega), List.drop_eq_nil_of_le (by simp; omega),
        List.drop_eq_nil_of_le (by simp; omega)]
      rfl
  simp only [Port.withBits, hr, List.append_eq_nil_iff, List.cons_ne_nil, and_false, if_false,
    List.append_assoc, List.length_append, List.length_cons, List.length_nil, Nat.zero_add] at h ⊢
  simp only [Nat.add_assoc, Nat.add_comm 1] at h ⊢
  rw [h]

/-- One bit, where what the port does with SDA in it is `acts` there. -/
theorem State.takeBit_eq {s : State} {p : PortId} {r : Run} {acts : List Pull} (high : Bool)
    (h : acts[r.bits.length]? = some (s.bitPull r)) :
    s.takeBit p r high = (s.setPort p
      ((s.port p).withBits r (r.bits ++ [high]) acts)).storeAtEighth p
        { r with bits := r.bits ++ [high] } := by
  have hl : (acts.take (r.bits.length + 1)).drop r.bits.length = [s.bitPull r] := by
    obtain ⟨hlt, he⟩ := List.getElem?_eq_some_iff.1 h
    rw [List.drop_take]
    simp only [Nat.add_sub_cancel_left]
    rw [List.drop_eq_getElem_cons hlt, List.take_succ_cons, List.take_zero, he]
  have hd : acts.getD (r.bits.length + 1 - 1) .released = s.bitPull r := by
    simp [List.getD_eq_getElem?_getD, h]
  simp only [State.takeBit, State.openBit, State.closeBit, Port.withBits, State.setPort_port_same,
    State.setPort_setPort, List.length_append, List.length_cons, List.length_nil, Nat.zero_add, hl, hd,
    List.isEmpty_iff]

@[simp] theorem State.byteToSend_setPort (s : State) (p : PortId) (x : Port) (r : Run) :
    (s.setPort p x).byteToSend r = s.byteToSend r := by
  simp [State.byteToSend, State.stepOf, State.writeByteAt]

@[simp] theorem State.byteToSend_bits (s : State) (r : Run) (l : List Bool) :
    s.byteToSend { r with bits := l } = s.byteToSend r := rfl

/-- What the port does with SDA in the bit of a byte it sends. -/
theorem State.bitPull_sent {s : State} {r : Run} {b : Byte} (hb : s.byteToSend r = some b)
    (hl : r.bits.length < 9) : (pullsSent b)[r.bits.length]? = some (s.bitPull r) := by
  have hp : (r.phase == .read) = false := by
    cases h : r.phase <;> first | rfl | simp [State.byteToSend, h] at hb
  rw [pullsSent_get b hl]
  simp only [State.bitPull, hp, hb]
  by_cases h : r.bits.length < 8 <;> cases hc : busBit b r.bits.length <;> simp [h, hc]

theorem State.bitContested_sent {s : State} {r : Run} {b : Byte} (hb : s.byteToSend r = some b) :
    s.bitContested r = (decide (r.bits.length < 8) && busBit b r.bits.length) := by
  have hp : (r.phase == .read) = false := by
    cases h : r.phase <;> first | rfl | simp [State.byteToSend, h] at hb
  simp only [State.bitContested, State.bitPull, hp, hb]
  by_cases h : r.bits.length < 8 <;> cases hc : busBit b r.bits.length <;> simp [h, hc]

theorem State.byteToSend_phase {s : State} {r : Run} {b : Byte} (hb : s.byteToSend r = some b) :
    (r.phase == .read) = false := by
  cases h : r.phase <;> first | rfl | simp [State.byteToSend, h] at hb

/-- Bits of a byte that is sent, up to its ninth, in none of which arbitration is lost. -/
theorem takeBits_sent {p : PortId} {b : Byte} : ∀ (bits : List Bool) (s : State) (r : Run),
    (s.port p).state = .running r → s.byteToSend r = some b → bits ≠ [] →
    (r.bits ++ bits).length ≤ 9 →
    ((s.port p).settings.mode = .shared → ∀ k, r.bits.length ≤ k → k < 8 → busBit b k = true →
      (r.bits ++ bits)[k]? ≠ some false) →
    takeBits p bits s = s.setPort p ((s.port p).withBits r (r.bits ++ bits) (pullsSent b))
  | [], _, _, _, _, h, _, _ => absurd rfl h
  | high :: rest, s, r, hr, hb, _, hl, hw => by
    have hl' : r.bits.length + (rest.length + 1) ≤ 9 := by simpa using hl
    have hn : r.bits.length < 9 := by omega
    have hc : (high || (s.port p).settings.mode != .shared || !s.bitContested r) = true := by
      rw [State.bitContested_sent hb]
      cases high with
      | true => rfl
      | false =>
        by_cases hm : (s.port p).settings.mode = .shared
        · have := hw hm r.bits.length (Nat.le_refl _)
          by_cases h8 : r.bits.length < 8
          · have := this h8
            cases hbit : busBit b r.bits.length with
            | true => simp [hbit] at this
            | false => simp
          · simp [h8]
        · simp [hm]
    have hs : ∀ (u : State) (r' : Run), r'.phase = r.phase → u.storeAtEighth p r' = u := by
      intro u r' h
      simp [State.storeAtEighth, h, State.byteToSend_phase hb]
    have ht := State.takeBit_eq (p := p) high (State.bitPull_sent hb hn)
    rw [hs _ { r with bits := r.bits ++ [high] } rfl] at ht
    simp only [takeBits, State.run_of hr, hn, hc, decide_true, Bool.true_and, if_true, ht]
    cases rest with
    | nil => rfl
    | cons x xs =>
      have ih := takeBits_sent (p := p) (x :: xs)
        (s.setPort p ((s.port p).withBits r (r.bits ++ [high]) (pullsSent b)))
        { r with bits := r.bits ++ [high] } (by simp) (by simpa using hb) (by simp)
        (by simp at hl' ⊢; omega)
        (fun hm k hk h8 hbit => by
          have := hw (by simpa using hm) k (by simp at hk; omega) h8 hbit
          simpa using this)
      rw [ih, State.setPort_port_same, State.setPort_setPort, Port.withBits_withBits _ _ _ _ _ _ rfl]
      simp

/-! ### A byte that is received -/

/-- A read byte stored and counted: the pool and one field of the run record. -/
theorem State.storeReadByte_of {s : State} {r : Run} {j : Job} (b : Byte)
    (hj : s.job? r.slot = some j) :
    s.storeReadByte r b = { s with
      pool := Memory.write s.pool (poolAddr j.blocks (j.writeLen + r.readCursor)) b
      slots := s.slots.set r.slot (some { j with run := { j.run with
        received := r.readCursor + 1 } }) } := by
  simp only [State.storeReadByte, hj, State.modifyRecord, State.modifyJob, State.job_setPool]
  rfl

theorem State.storeReadByte_none {s : State} {r : Run} (b : Byte) (hj : s.job? r.slot = none) :
    s.storeReadByte r b = s := by
  simp [State.storeReadByte, hj]

theorem State.storeReadByte_setPort (s : State) (p : PortId) (x : Port) (r : Run) (b : Byte) :
    (s.setPort p x).storeReadByte r b = (s.storeReadByte r b).setPort p x := by
  cases hj : s.job? r.slot with
  | none => rw [State.storeReadByte_none b hj, State.storeReadByte_none b (by simpa using hj)]
  | some j =>
    rw [State.storeReadByte_of b hj, State.storeReadByte_of (j := j) b (by simpa using hj)]
    cases p <;> rfl

@[simp] theorem State.storeReadByte_port (s : State) (r : Run) (b : Byte) (p : PortId) :
    (s.storeReadByte r b).port p = s.port p := by
  have h := congrArg (fun u => u.port p) (State.storeReadByte_setPort s p (s.port p) r b)
  simpa using h

theorem State.naked_storeReadByte (s : State) (r : Run) (b : Byte) :
    ((s.storeReadByte r b).job? r.slot).any Job.readNak = (s.job? r.slot).any Job.readNak := by
  cases hj : s.job? r.slot with
  | none => simp [State.storeReadByte, hj]
  | some j =>
    have hl := State.job_lt hj
    have e : (s.storeReadByte r b).job? r.slot = some { j with run := { j.run with
        received := r.readCursor + 1 } } := by
      rw [State.storeReadByte_of b hj]
      simp [State.job?, List.getD_eq_getElem?_getD, hl]
    rw [e]
    rfl

/-- What the port does with SDA in the bit of a byte it receives. -/
theorem State.bitPull_given {s : State} {r : Run} (hp : r.phase = .read) (hl : r.bits.length < 9) :
    (pullsGiven ((s.job? r.slot).any Job.readNak))[r.bits.length]? = some (s.bitPull r) := by
  rw [pullsGiven_get _ hl]
  simp only [State.bitPull, hp]
  by_cases h : r.bits.length < 8 <;> cases hc : (s.job? r.slot).any Job.readNak <;> simp [h]

theorem State.bitContested_given {s : State} {r : Run} (hp : r.phase = .read)
    (hl : r.bits.length < 9) : s.bitContested r
      = (decide (r.bits.length = 8) && (s.job? r.slot).any Job.readNak) := by
  simp only [State.bitContested, State.bitPull, hp]
  by_cases h : r.bits.length = 8
  · cases hc : (s.job? r.slot).any Job.readNak <;> simp [h]
  · have h8 : r.bits.length < 8 := by omega
    simp [h, h8]

/-- Bits of a byte that is received, up to its ninth, whose NAK is not contested: the byte is written and
counted with its eighth bit. -/
theorem takeBits_received {p : PortId} {naked : Bool} : ∀ (bits : List Bool) (s : State) (r : Run),
    (s.port p).state = .running r → r.phase = .read →
    (s.job? r.slot).any Job.readNak = naked → bits ≠ [] → (r.bits ++ bits).length ≤ 9 →
    ((s.port p).settings.mode = .shared → naked = true → r.bits.length ≤ 8 →
      (r.bits ++ bits)[8]? ≠ some false) →
    takeBits p bits s =
      if r.bits.length < 8 ∧ 8 ≤ (r.bits ++ bits).length
      then (s.storeReadByte r (byteOfReadings ((r.bits ++ bits).take 8))).setPort p
        ((s.port p).withBits { r with readCursor := r.readCursor + 1 } (r.bits ++ bits)
          (pullsGiven naked))
      else s.setPort p ((s.port p).withBits r (r.bits ++ bits) (pullsGiven naked))
  | [], _, _, _, _, _, h, _, _ => absurd rfl h
  | high :: rest, s, r, hr, hp, hk, _, hl, hw => by
    have hl' : r.bits.length + (rest.length + 1) ≤ 9 := by simpa using hl
    have hn : r.bits.length < 9 := by omega
    have hc : (high || (s.port p).settings.mode != .shared || !s.bitContested r) = true := by
      rw [State.bitContested_given hp hn, hk]
      cases high with
      | true => rfl
      | false =>
        by_cases hm : (s.port p).settings.mode = .shared
        · cases hnk : naked with
          | false => simp
          | true =>
            have := hw hm hnk (by omega)
            by_cases h8 : r.bits.length = 8
            · simp [← h8] at this
            · simp [h8]
        · simp [hm]
    have ht := State.takeBit_eq (s := s) (p := p) high (State.bitPull_given hp hn)
    rw [hk] at ht
    simp only [takeBits, State.run_of hr, hn, hc, decide_true, Bool.true_and, if_true, ht]
    by_cases h7 : r.bits.length = 7
    · have e : ((s.setPort p ((s.port p).withBits r (r.bits ++ [high]) (pullsGiven naked))).storeAtEighth
          p { r with bits := r.bits ++ [high] })
          = (s.storeReadByte r (byteOfReadings (r.bits ++ [high]))).setPort p
            ((s.port p).withBits { r with readCursor := r.readCursor + 1 } (r.bits ++ [high])
              (pullsGiven naked)) := by
        have k (x : Port) : (s.setPort p x).storeReadByte { r with bits := r.bits ++ [high] }
            (byteOfReadings (r.bits ++ [high]))
              = (s.storeReadByte r (byteOfReadings (r.bits ++ [high]))).setPort p x :=
          State.storeReadByte_setPort s p x r _
        have c : (({ r with bits := r.bits ++ [high] } : Run).phase == .read
            && ({ r with bits := r.bits ++ [high] } : Run).bits.length == 8) = true := by
          simp [hp, h7]
        unfold State.storeAtEighth
        rw [if_pos c]
        dsimp only
        rw [k, State.setPort_port_same, State.setPort_setPort]
        rfl
      have t8 : ∀ l, (r.bits ++ high :: l).take 8 = r.bits ++ [high] := by
        intro l
        rw [List.take_append, h7]
        simp [List.take_of_length_le (show r.bits.length ≤ 8 by omega)]
      rw [e, if_pos (by simp [h7]; omega), t8]
      cases rest with
      | nil => rfl
      | cons x xs =>
        have ih := takeBits_received (p := p) (naked := naked) (x :: xs)
          ((s.storeReadByte r (byteOfReadings (r.bits ++ [high]))).setPort p
            ((s.port p).withBits { r with readCursor := r.readCursor + 1 } (r.bits ++ [high])
              (pullsGiven naked)))
          { r with readCursor := r.readCursor + 1, bits := r.bits ++ [high] } (by simp) hp
          (by rw [State.job_setPort]; exact (State.naked_storeReadByte s r _).trans hk) (by simp)
          (by simp at hl' ⊢; omega)
          (fun hm hk' h8 => by
            have := hw (by simpa using hm) hk' (by omega)
            simpa using this)
        rw [ih, if_neg (by simp [h7]), State.setPort_port_same, State.setPort_setPort,
          Port.withBits_withBits _ { r with readCursor := r.readCursor + 1 } _ _ _ _ rfl]
        simp
    · have e : ((s.setPort p ((s.port p).withBits r (r.bits ++ [high]) (pullsGiven naked))).storeAtEighth
          p { r with bits := r.bits ++ [high] })
          = s.setPort p ((s.port p).withBits r (r.bits ++ [high]) (pullsGiven naked)) := by
        simp [State.storeAtEighth, h7]
      rw [e]
      cases rest with
      | nil => rw [if_neg (by simp; omega)]; rfl
      | cons x xs =>
        have ih := takeBits_received (p := p) (naked := naked) (x :: xs)
          (s.setPort p ((s.port p).withBits r (r.bits ++ [high]) (pullsGiven naked)))
          { r with bits := r.bits ++ [high] } (by simp) hp (by simpa using hk) (by simp)
          (by simp at hl' ⊢; omega)
          (fun hm hk' h8 => by
            have := hw (by simpa using hm) hk' (by simp at h8; omega)
            simpa using this)
        have c : ({ r with bits := r.bits ++ [high] } : Run).bits.length < 8
            ↔ r.bits.length < 8 := by simp; omega
        have k (x : Port) (b : Byte) : (s.setPort p x).storeReadByte
            { r with bits := r.bits ++ [high] } b = (s.storeReadByte r b).setPort p x :=
          State.storeReadByte_setPort s p x r b
        rw [ih]
        simp only [c, k, State.setPort_port_same, State.setPort_setPort, List.append_assoc,
          List.singleton_append]
        have w1 := Port.withBits_withBits (s.port p) r { r with bits := r.bits ++ [high] } high (x :: xs)
          (pullsGiven naked) rfl
        have w2 := Port.withBits_withBits (s.port p) r
          { r with readCursor := r.readCursor + 1, bits := r.bits ++ [high] } high (x :: xs)
          (pullsGiven naked) rfl
        simp only [List.append_assoc, List.singleton_append] at w1 w2
        rw [w1, w2]

/-! ### The row of a byte -/

/-- What the row of a byte comes to, by what its bits come to. -/
theorem State.onBits_of {s u : State} {p : PortId} {phase : Phase} {bits : List Bool}
    (whole : State → Run → Bool → State) {r r1 : Run} (hr : (s.port p).state = .running r)
    (hp : r.phase = phase) (hu : takeBits p bits s = u) (h1 : (u.port p).state = .running r1) :
    s.onBits p phase bits whole = if r1.bits.length = 9
      then whole (u.endByte p r1) { r1 with bits := [] } (r1.bits.getD 8 true) else u := by
  simp [State.onBits, State.run_of hr, hp, hu, State.run_of h1]

/-- The row of a byte that is sent, in none of whose bits arbitration is lost: what it leaves before the
ninth bit, and what its byte does with the ninth. -/
theorem State.onBits_sent {s : State} {p : PortId} {r : Run} {b : Byte} {bits : List Bool}
    {phase : Phase} (whole : State → Run → Bool → State) (hr : (s.port p).state = .running r)
    (hp : r.phase = phase) (hb : s.byteToSend r = some b) (hne : bits ≠ [])
    (hw : (s.port p).Wins r.bits.length (r.bits ++ bits)
      (fun k => k < 8 ∧ b.getLsbD (7 - k) = true)) :
    ((r.bits ++ bits).length < 9 → s.onBits p phase bits whole
      = s.setPort p ((s.port p).withBits r (r.bits ++ bits) (pullsSent b))) ∧
    ((r.bits ++ bits).length = 9 → s.onBits p phase bits whole
      = whole (s.setPort p { (s.port p).withBits r (r.bits ++ bits) (pullsSent b) with
          state := .running { r with bits := [] } }) { r with bits := [] }
        ((r.bits ++ bits).getD 8 true)) := by
  have h (hl : (r.bits ++ bits).length ≤ 9) := takeBits_sent (p := p) bits s r hr hb hne hl
    (fun hm k hk h8 hbit => hw hm k hk ⟨h8, hbit⟩)
  constructor
  · intro hl
    have hn : ¬(r.bits ++ bits).length = 9 := by omega
    rw [State.onBits_of (r1 := { r with bits := r.bits ++ bits }) whole hr hp (h (by omega))
      (by rw [State.setPort_port_same]; rfl)]
    simp only [hn, if_false]
  · intro hl
    rw [State.onBits_of (r1 := { r with bits := r.bits ++ bits }) whole hr hp (h (by omega))
      (by rw [State.setPort_port_same]; rfl)]
    simp only [hl, if_true, State.endByte, State.setPort_setPort, State.setPort_port_same]

/-- The row of a byte that is received, whose NAK is not contested: the byte is stored where its eighth bit
comes with the row. -/
theorem State.onBits_received {s : State} {p : PortId} {r : Run} {naked : Bool} {b : Byte}
    {bits : List Bool} (whole : State → Run → Bool → State) (hr : (s.port p).state = .running r)
    (hp : r.phase = .read) (hk : (s.job? r.slot).any Job.readNak = naked) (hne : bits ≠ [])
    (hb : ∀ k, k < 8 → k < (r.bits ++ bits).length →
      (r.bits ++ bits)[k]? = some (b.getLsbD (7 - k)))
    (hw : (s.port p).Wins r.bits.length (r.bits ++ bits) (fun k => k = 8 ∧ naked = true)) :
    let eighth : Prop := r.bits.length < 8 ∧ 8 ≤ (r.bits ++ bits).length
    let r' : Run := { r with readCursor := if eighth then r.readCursor + 1 else r.readCursor }
    let stored := if eighth then s.storeReadByte r b else s
    ((r.bits ++ bits).length < 9 → s.onBits p .read bits whole
      = stored.setPort p ((s.port p).withBits r' (r.bits ++ bits) (pullsGiven naked))) ∧
    ((r.bits ++ bits).length = 9 → s.onBits p .read bits whole
      = whole (stored.setPort p { (s.port p).withBits r' (r.bits ++ bits) (pullsGiven naked) with
          state := .running { r' with bits := [] } }) { r' with bits := [] }
        ((r.bits ++ bits).getD 8 true)) := by
  intro eighth r' stored
  have hbyte : eighth → byteOfReadings ((r.bits ++ bits).take 8) = b := by
    rintro ⟨-, h8⟩
    rw [← byteOfReadings_of b]
    congr 1
    apply List.ext_getElem?
    intro i
    by_cases hi : i < 8
    · rw [List.getElem?_take_of_lt hi, hb i hi (by omega)]
      rcases i with _ | _ | _ | _ | _ | _ | _ | _ | i <;> first | rfl | omega
    · rw [List.getElem?_eq_none (by simp; omega), List.getElem?_eq_none (by simp; omega)]
  have h (hl : (r.bits ++ bits).length ≤ 9) : takeBits p bits s = stored.setPort p
      ((s.port p).withBits r' (r.bits ++ bits) (pullsGiven naked)) := by
    rw [takeBits_received (p := p) bits s r hr hp hk hne hl (fun hm hn h8 => hw hm 8 h8 ⟨rfl, hn⟩)]
    by_cases he : eighth
    · have e1 : stored = s.storeReadByte r b := if_pos he
      have e2 : r' = { r with readCursor := r.readCursor + 1 } := by simp only [r', he, if_true]
      rw [if_pos he, hbyte he, e1, e2]
    · have e1 : stored = s := if_neg he
      have e2 : r' = r := by simp only [r', he, if_false]
      rw [if_neg he, e1, e2]
  constructor
  · intro hl
    have hn : ¬(r.bits ++ bits).length = 9 := by omega
    rw [State.onBits_of (r1 := { r' with bits := r.bits ++ bits }) whole hr hp (h (by omega))
      (by rw [State.setPort_port_same]; rfl)]
    simp only [hn, if_false]
  · intro hl
    rw [State.onBits_of (r1 := { r' with bits := r.bits ++ bits }) whole hr hp (h (by omega))
      (by rw [State.setPort_port_same]; rfl)]
    simp only [hl, if_true, State.endByte, State.setPort_setPort, State.setPort_port_same]

/-- The row of another phase does nothing. -/
theorem State.onBits_other {s : State} {p : PortId} {phase : Phase} {bits : List Bool}
    (whole : State → Run → Bool → State) (h : ∀ r, (s.port p).state = .running r → r.phase ≠ phase) :
    s.onBits p phase bits whole = s := by
  cases hs : (s.port p).state with
  | running r => simp [State.onBits, State.run_of hs, h r hs]
  | _ => simp [State.onBits, State.run?, hs]

/-- A bit in which arbitration is lost is where the bits of a list end. -/
theorem takeBits_lost {p : PortId} {after : List Bool} : ∀ (before : List Bool) (s : State),
    (∀ r, ((takeBits p before s).port p).state = .running r → r.bits.length < 9 →
      ((takeBits p before s).port p).settings.mode = .shared ∧
        (takeBits p before s).bitContested r = true) →
    takeBits p (before ++ false :: after) s = takeBits p before s
  | [], s, h => by
    show takeBits p (false :: after) s = s
    cases hs : (s.port p).state with
    | running r =>
      by_cases hl : r.bits.length < 9
      · obtain ⟨hm, hc⟩ := h r hs hl
        simp only [takeBits] at hm hc
        simp [takeBits, State.run_of hs, hm, hc]
      · simp [takeBits, State.run_of hs, hl]
    | _ => simp [takeBits, State.run?, hs]
  | high :: rest, s, h => by
    simp only [List.cons_append, takeBits] at h ⊢
    split
    · rename_i r hr
      simp only [hr] at h
      split
      · rename_i hc
        simp only [hc, if_true] at h
        exact takeBits_lost rest _ h
      · rfl
    · rfl

end Sys2Proof.Machine
end

