-- ==== Sys2Proof/Laws/Link.lean ====
section
/-! SUPPORT. What a quiet state is to a command (R56), a byte's serial form (R162), and what taking a
request does (R166): one lemma for each way it can go. -/

namespace Sys2Proof.Machine

/-! ### Nothing under way -/

/-- In a quiet state a command acts on the state as it stands. -/
theorem State.Quiet.beforeEvent {s : State} (h : s.Quiet) : s.beforeEvent = s :=
  State.beforeEvent_of_done h.1 h.2.1

theorem State.Quiet.beforeLineEvent {s : State} (h : s.Quiet) :
    s.beforeLineEvent = s.finishEventUnit := State.beforeLineEvent_of_done h.1 h.2.1

theorem State.Quiet.beforeWire {s : State} {p : PortId} (h : s.Quiet) (hs : s.stretchDue p = false) :
    s.beforeWire p = s := State.beforeWire_of_done h.1 h.2.1 hs

/-! ### The serial form -/

/-- The eight data bits of a byte, least significant first, spell the byte. -/
theorem byteOfBits_of (b : Byte) :
    byteOfBits [b.getLsbD 0, b.getLsbD 1, b.getLsbD 2, b.getLsbD 3, b.getLsbD 4, b.getLsbD 5,
      b.getLsbD 6, b.getLsbD 7] = b := by
  revert b
  decide +kernel

/-- A byte on TXD, bit by bit. -/
theorem serialBits_eq (b : Byte) :
    serialBits b = [false, b.getLsbD 0, b.getLsbD 1, b.getLsbD 2, b.getLsbD 3, b.getLsbD 4,
      b.getLsbD 5, b.getLsbD 6, b.getLsbD 7, true] := rfl

/-! ### Requests -/

/-- The size check of a kind, by the table of payload sizes. -/
theorem Kind.sizeOk_iff (k : Kind) (n : Nat) :
    k.sizeOk n = true ↔ (if k = .submit then 23 ≤ n else n = k.payloadBytes) := by
  cases k <;> simp [Kind.sizeOk, Kind.payloadBytes]

theorem State.MayTake.requestOf {s : State} {k : Kind} {r : Request} (h : s.MayTake k r) :
    s.requestOf k = some r := by
  obtain ⟨_, hh, hk, htx, hw⟩ := h
  have hc : s.link.canTake = true := by
    simp [Link.canTake, htx]
    cases hs : s.link.slot <;> simp_all
  simp [State.requestOf, hh, hk, hc]

/-- The reply of a request whose body has only emptied the hand. -/
theorem State.emptyHand_answer (s : State) (r : Request) (payload : List Byte) :
    s.emptyHand.answer r payload = s.replied r payload := rfl

/-- A payload of the wrong size is answered BAD_LENGTH. -/
theorem State.serve_badLength {s : State} {k : Kind} {r : Request} {open_ : Request → Bool}
    {body : Request → State → State} (h : s.MayTake k r)
    (hz : k.sizeOk r.payload.length = false) :
    s.serve k open_ body = s.replied r [0x10] := by
  simp [State.serve, h.requestOf, hz]
  rfl

/-- A request that may not be carried out while a reply is held is answered LINK_BUSY. -/
theorem State.serve_busy {s : State} {k : Kind} {r : Request} {open_ : Request → Bool}
    {body : Request → State → State} (h : s.MayTake k r)
    (hz : k.sizeOk r.payload.length = true) (hs : s.link.slot.isHeld = true)
    (ho : open_ r = false) :
    s.serve k open_ body = s.replied r [0x14] := by
  simp [State.serve, h.requestOf, hz, hs, ho]
  rfl

/-- Any other request is carried out, its hand emptied. -/
theorem State.serve_body {s : State} {k : Kind} {r : Request} {open_ : Request → Bool}
    {body : Request → State → State} (h : s.MayTake k r)
    (hz : k.sizeOk r.payload.length = true)
    (ho : s.link.slot.isHeld = true → open_ r = true) :
    s.serve k open_ body = body r s.emptyHand := by
  simp only [State.serve, h.requestOf, hz]
  cases hs : s.link.slot.isHeld <;> simp_all

/-- With no reply held every request of the right size is carried out. -/
theorem State.serve_carriesOut {s : State} {k : Kind} {r : Request} {open_ : Request → Bool}
    {body : Request → State → State} (h : s.MayCarryOut k r)
    (hz : k.sizeOk r.payload.length = true) :
    s.serve k open_ body = body r s.emptyHand :=
  State.serve_body h.1 hz (by rw [h.2]; intro hs; exact absurd hs (by decide))

/-- What a request that is not in hand does: nothing. -/
theorem State.serve_none {s : State} {k : Kind} {open_ : Request → Bool}
    {body : Request → State → State} (h : s.requestOf k = none) : s.serve k open_ body = s := by
  simp [State.serve, h]

end Sys2Proof.Machine
end

