-- ==== Sys2Proof/Laws/Memory.lean ====
section
/-! SUPPORT. The pool's memory: every write keeps the canonical form, and reading after a write. -/

namespace Sys2Proof.Machine

theorem Memory.wfFrom_mono {lo lo' : Nat} (h : lo' ≤ lo) :
    ∀ {m : List Host.Cell}, Memory.wfFrom lo m = true → Memory.wfFrom lo' m = true
  | [], _ => rfl
  | (k, v) :: m, hw => by
    simp only [Memory.wfFrom, Bool.and_eq_true, decide_eq_true_eq] at hw ⊢
    exact ⟨⟨Nat.le_trans h hw.1.1, hw.1.2⟩, hw.2⟩

/-- A write at an address from `lo` on keeps the form. -/
theorem Memory.wfFrom_write (a : Nat) (b : Byte) :
    ∀ (m : List Host.Cell) (lo : Nat), lo ≤ a → Memory.wfFrom lo m = true →
      Memory.wfFrom lo (Memory.write m a b) = true
  | [], lo, ha, _ => by
    simp only [Memory.write]
    split <;> simp_all [Memory.wfFrom]
  | (k, v) :: m, lo, ha, hw => by
    have ih := Memory.wfFrom_write a b m (k + 1)
    have up : lo ≤ k → Memory.wfFrom (k + 1) m = true → Memory.wfFrom lo m = true :=
      fun h => Memory.wfFrom_mono (Nat.le_succ_of_le h)
    simp only [Memory.wfFrom, Bool.and_eq_true, decide_eq_true_eq, bne_iff_ne] at hw
    simp only [Memory.write]
    split
    · split <;> simp_all [Memory.wfFrom]
    · split
      · split <;> simp_all [Memory.wfFrom]
      · have : k + 1 ≤ a := by omega
        simp_all [Memory.wfFrom]

/-- Every write keeps the canonical form. -/
theorem Memory.wf_write {m : List Host.Cell} (a : Nat) (b : Byte) (h : Memory.wf m = true) :
    Memory.wf (Memory.write m a b) = true :=
  Memory.wfFrom_write a b m 0 (Nat.zero_le a) h

theorem Memory.wf_writeBytes (blocks : List Nat) :
    ∀ (bs : List Byte) (off : Nat) (m : List Host.Cell), Memory.wf m = true →
      Memory.wf (writeBytes blocks off bs m) = true
  | [], _, _, h => h
  | b :: bs, off, _, h =>
    Memory.wf_writeBytes blocks bs (off + 1) _ (Memory.wf_write (poolAddr blocks off) b h)

/-- Below the least address of a canonical list everything reads as blank. -/
theorem Memory.read_below :
    ∀ (m : List Host.Cell) (lo a : Nat), Memory.wfFrom lo m = true → a < lo →
      Memory.read m a = Memory.blank
  | [], _, _, _, _ => rfl
  | (k, v) :: m, lo, a, hw, ha => by
    simp only [Memory.wfFrom, Bool.and_eq_true, decide_eq_true_eq] at hw
    have hk : k ≠ a := by omega
    simp [Memory.read, hk, Memory.read_below m (k + 1) a hw.2 (by omega)]

/-- Reading an address a canonical list was written at, or another one. -/
theorem Memory.read_writeFrom (a : Nat) (b : Byte) (c : Nat) :
    ∀ (m : List Host.Cell) (lo : Nat), Memory.wfFrom lo m = true →
      Memory.read (Memory.write m a b) c = if c = a then b else Memory.read m c
  | [], _, _ => by
    simp only [Memory.write]
    split
    · simp_all [Memory.read]
    · by_cases hc : c = a
      · simp [Memory.read, hc]
      · simp [Memory.read, hc, Ne.symm hc]
  | (k, v) :: m, lo, hw => by
    have below := Memory.read_below m (k + 1) a
    have ih := Memory.read_writeFrom a b c m (k + 1)
    simp only [Memory.wfFrom, Bool.and_eq_true, decide_eq_true_eq] at hw
    have here : a ≤ k → k ≠ a → Memory.read ((k, v) :: m) a = Memory.blank := fun h hne => by
      simp [Memory.read, hne, below hw.2 (by omega)]
    simp only [Memory.write]
    by_cases hc : c = a
    · subst hc
      split
      · split
        · rename_i hb; simpa [hb] using here (by omega) (by omega)
        · simp [Memory.read]
      · split
        · rename_i hk; subst hk
          split
          · rename_i hb; simpa [hb] using below hw.2 (by omega)
          · simp [Memory.read]
        · rename_i hne
          simpa [Memory.read, Ne.symm hne] using ih hw.2
    · split
      · split <;> simp [Memory.read, Ne.symm hc]
      · split
        · rename_i hk; subst hk
          split <;> simp [Memory.read, Ne.symm hc]
        · simp only [hc, if_false] at ih ⊢
          simp [Memory.read, ih hw.2]

/-- The written byte is read back. -/
theorem Memory.read_write_same {m : List Host.Cell} (a : Nat) (b : Byte) (h : Memory.wf m = true) :
    Memory.read (Memory.write m a b) a = b := by
  simp [Memory.read_writeFrom a b a m 0 h]

/-- Every other byte reads as before. -/
theorem Memory.read_write_other {m : List Host.Cell} {a c : Nat} (b : Byte)
    (h : Memory.wf m = true) (hc : c ≠ a) :
    Memory.read (Memory.write m a b) c = Memory.read m c := by
  simp [Memory.read_writeFrom a b c m 0 h, hc]

end Sys2Proof.Machine
end

