-- ==== Sys2Proof/Laws/Ops.lean ====
section
/-! SUPPORT. What the shared operations of Ops.lean and JobOps.lean can change: notices, the drain, the
reservations, a freed job. -/

namespace Sys2Proof.Machine

/-! ### Operations that move notices only -/

/-- From `s` to `t` only notice states, the owed list, queued notices at the tail and the pulse have
moved. -/
structure State.NoticesMoved (s t : State) : Prop where
  pending  : t.pending = s.pending
  slots    : t.slots = s.slots
  counter  : t.counter = s.counter
  pool     : t.pool = s.pool
  time     : t.time = s.time
  timeSet  : t.timeSet = s.timeSet
  tick     : t.tick = s.tick
  pins     : t.pins = s.pins
  link     : t.link = s.link
  reserved : t.reports.reserved = s.reports.reserved
  queued   : ∃ notices, t.reports.queued = s.reports.queued ++ notices ∧
    ∀ x ∈ notices, x.source ≠ none
  count    : t.lines.length = s.lines.length
  lines    : ∀ n, ∃ x, t.line n = { s.line n with notice := x }
  ports    : ∀ p, ∃ x, t.port p = { s.port p with notice := x }

theorem State.NoticesMoved.refl (s : State) : s.NoticesMoved s where
  pending := rfl
  slots := rfl
  counter := rfl
  pool := rfl
  time := rfl
  timeSet := rfl
  tick := rfl
  pins := rfl
  link := rfl
  reserved := rfl
  queued := ⟨[], by simp⟩
  count := rfl
  lines := fun n => ⟨(s.line n).notice, rfl⟩
  ports := fun p => ⟨(s.port p).notice, rfl⟩

theorem State.NoticesMoved.trans {s t u : State} (h : s.NoticesMoved t) (k : t.NoticesMoved u) :
    s.NoticesMoved u where
  pending := k.pending.trans h.pending
  slots := k.slots.trans h.slots
  counter := k.counter.trans h.counter
  pool := k.pool.trans h.pool
  time := k.time.trans h.time
  timeSet := k.timeSet.trans h.timeSet
  tick := k.tick.trans h.tick
  pins := k.pins.trans h.pins
  link := k.link.trans h.link
  reserved := k.reserved.trans h.reserved
  queued := by
    obtain ⟨a, ha, hs⟩ := h.queued
    obtain ⟨b, hb, ht⟩ := k.queued
    refine ⟨a ++ b, by rw [hb, ha, List.append_assoc], fun x hx => ?_⟩
    rcases List.mem_append.1 hx with hx | hx
    · exact hs x hx
    · exact ht x hx
  count := k.count.trans h.count
  lines := fun n => by
    obtain ⟨x, hx⟩ := h.lines n
    obtain ⟨y, hy⟩ := k.lines n
    exact ⟨y, by rw [hy, hx]⟩
  ports := fun p => by
    obtain ⟨x, hx⟩ := h.ports p
    obtain ⟨y, hy⟩ := k.ports p
    exact ⟨y, by rw [hy, hx]⟩

theorem State.NoticesMoved.job {s t : State} (h : s.NoticesMoved t) (slot : Nat) :
    t.job? slot = s.job? slot := by
  simp only [State.job?, h.slots]

theorem State.NoticesMoved.portState {s t : State} (h : s.NoticesMoved t) (p : PortId) :
    (t.port p).state = (s.port p).state := by
  obtain ⟨x, hx⟩ := h.ports p
  rw [hx]

theorem State.NoticesMoved.ready {s t : State} (h : s.NoticesMoved t) (p : PortId) :
    (t.port p).ready = (s.port p).ready := by
  obtain ⟨x, hx⟩ := h.ports p
  rw [hx]

theorem State.NoticesMoved.settings {s t : State} (h : s.NoticesMoved t) (p : PortId) :
    (t.port p).settings = (s.port p).settings := by
  obtain ⟨x, hx⟩ := h.ports p
  rw [hx]

/-- A notice state set, and nothing else. -/
theorem State.setNotice_moved (s : State) (src : Source) (x : NoticeState) :
    s.NoticesMoved (s.setNotice src x) := by
  cases src with
  | line n =>
    exact {
      pending := rfl, slots := rfl, counter := rfl, pool := rfl, time := rfl, timeSet := rfl
      tick := rfl, pins := rfl, link := rfl, reserved := rfl, queued := ⟨[], by simp [State.setNotice]⟩
      count := by simp [State.setNotice]
      lines := fun i => by
        by_cases h : i = n
        · subst h
          by_cases hl : i < s.lines.length
          · exact ⟨x, State.line_setLine_same s _ hl⟩
          · refine ⟨(s.line i).notice, ?_⟩
            show (s.setLine i _).line i = s.line i
            simp only [State.setLine]
            rw [List.set_eq_of_length_le (Nat.le_of_not_lt hl)]
        · exact ⟨(s.line i).notice, State.line_setLine_other s _ h⟩
      ports := fun p => ⟨(s.port p).notice, by simp [State.setNotice]⟩ }
  | port q =>
    exact {
      pending := by simp [State.setNotice], slots := by simp [State.setNotice]
      counter := by simp [State.setNotice], pool := by simp [State.setNotice]
      time := by simp [State.setNotice], timeSet := by simp [State.setNotice]
      tick := by simp [State.setNotice], pins := by simp [State.setNotice]
      link := by simp [State.setNotice], reserved := by simp [State.setNotice]
      queued := ⟨[], by simp [State.setNotice]⟩
      count := by simp [State.setNotice]
      lines := fun i => ⟨(s.line i).notice, by simp [State.setNotice]⟩
      ports := fun p => by
        by_cases h : p = q
        · subst h
          exact ⟨x, State.setPort_port_same s p _⟩
        · exact ⟨(s.port p).notice, State.setPort_port_other s _ h⟩ }

/-- The queue's notices, owed list and pulse replaced, and nothing else. -/
theorem State.setReports_moved (s : State) (q : ReportQueue)
    (hr : q.reserved = s.reports.reserved)
    (hq : ∃ notices, q.queued = s.reports.queued ++ notices ∧ ∀ x ∈ notices, x.source ≠ none) :
    s.NoticesMoved (s.setReports q) where
  pending := rfl
  slots := rfl
  counter := rfl
  pool := rfl
  time := rfl
  timeSet := rfl
  tick := rfl
  pins := rfl
  link := rfl
  reserved := hr
  queued := hq
  count := rfl
  lines := fun n => ⟨(s.line n).notice, rfl⟩
  ports := fun p => ⟨(s.port p).notice, by simp⟩

theorem State.noticeReport_source (s : State) (src : Source) :
    (s.noticeReport src).source = some src := by
  cases src <;> rfl

theorem State.queueNotice_moved (s : State) (src : Source) : s.NoticesMoved (s.queueNotice src) :=
  (State.setReports_moved s (s.reports.push (s.noticeReport src)) rfl
    ⟨[s.noticeReport src], rfl, by simp [State.noticeReport_source]⟩).trans
    (State.setNotice_moved _ src .queued)

theorem State.requestNotice_moved (s : State) (src : Source) :
    s.NoticesMoved (s.requestNotice src) := by
  unfold State.requestNotice
  split
  · exact State.queueNotice_moved s src
  · exact (State.setReports_moved s { s.reports with owed := s.reports.owed ++ [src] } rfl
      ⟨[], by simp⟩).trans (State.setNotice_moved _ src .owed)

/-- A request for a notice moves notices only. -/
theorem State.askNotice_moved (s : State) (src : Source) : s.NoticesMoved (s.askNotice src) := by
  unfold State.askNotice
  split
  · exact State.requestNotice_moved s src
  · exact State.NoticesMoved.refl s

theorem drainOwed_moved : ∀ (l : List Source) (s : State), s.NoticesMoved (drainOwed l s)
  | [], s => State.setReports_moved s _ rfl ⟨[], by simp⟩
  | src :: rest, s => by
    unfold drainOwed
    split
    · exact (State.queueNotice_moved s src).trans (drainOwed_moved rest _)
    · exact State.setReports_moved s _ rfl ⟨[], by simp⟩

/-- The drain moves notices only. -/
theorem State.drain_moved (s : State) : s.NoticesMoved s.drain := drainOwed_moved _ s

/-- A reservation given back moves the reservation count down by one, then notices only. -/
theorem State.giveBack_moved (s : State) :
    (s.setReports { s.reports with reserved := s.reports.reserved - 1 }).NoticesMoved s.giveBack :=
  State.drain_moved _

/-! ### A job that leaves -/

/-- The state in which the job in a slot has given back what it holds, but for the notices that the
returns of room bring about. -/
def State.without (s : State) (slot : Nat) (j : Job) : State :=
  let s1 := match j.port with
    | some p => s.leaveReady p slot
    | none => s
  (s1.setReports { s.reports with reserved := s.reports.reserved - j.reservations }).clearSlot slot

theorem State.NoticesMoved.setJob {s t : State} (h : s.NoticesMoved t) (slot : Nat) (j : Job) :
    (s.setJob slot j).NoticesMoved (t.setJob slot j) where
  pending := h.pending
  slots := by simp [h.slots]
  counter := h.counter
  pool := h.pool
  time := h.time
  timeSet := h.timeSet
  tick := h.tick
  pins := h.pins
  link := h.link
  reserved := h.reserved
  queued := h.queued
  count := h.count
  lines := h.lines
  ports := fun p => by simpa using h.ports p

theorem State.NoticesMoved.clearSlot {s t : State} (h : s.NoticesMoved t) (slot : Nat) :
    (s.clearSlot slot).NoticesMoved (t.clearSlot slot) where
  pending := h.pending
  slots := by simp [h.slots]
  counter := h.counter
  pool := h.pool
  time := h.time
  timeSet := h.timeSet
  tick := h.tick
  pins := h.pins
  link := h.link
  reserved := h.reserved
  queued := h.queued
  count := h.count
  lines := h.lines
  ports := fun p => by simpa using h.ports p

theorem State.NoticesMoved.lessReserved {s t : State} (h : s.NoticesMoved t) (k : Nat) :
    (s.setReports { s.reports with reserved := s.reports.reserved - k }).NoticesMoved
      (t.setReports { t.reports with reserved := t.reports.reserved - k }) where
  pending := h.pending
  slots := h.slots
  counter := h.counter
  pool := h.pool
  time := h.time
  timeSet := h.timeSet
  tick := h.tick
  pins := h.pins
  link := h.link
  reserved := by simp [h.reserved]
  queued := h.queued
  count := h.count
  lines := h.lines
  ports := fun p => by simpa using h.ports p

/-- The standing reservation of a job given back. -/
theorem State.giveBackStanding_moved {s : State} {slot : Nat} {j : Job} (hj : s.job? slot = some j) :
    ((s.setJob slot { j with standing := false }).setReports
      { s.reports with reserved := s.reports.reserved - (if j.standing then 1 else 0) }).NoticesMoved
      (s.giveBackStanding slot) := by
  simp only [State.giveBackStanding, hj]
  cases hs : j.standing with
  | true => simpa using State.giveBack_moved (s.setJob slot { j with standing := false })
  | false =>
    have e : s.setJob slot { j with standing := false } = s := by
      have : ({ j with standing := false } : Job) = j := by rw [← hs]
      rw [this]
      exact State.setJob_self hj
    rw [e]
    exact State.NoticesMoved.refl s

/-- The run reservation of a job given back. -/
theorem State.giveBackRun_moved {s : State} {slot : Nat} {j : Job} (hj : s.job? slot = some j) :
    ((s.setJob slot { j with runRes := false }).setReports
      { s.reports with reserved := s.reports.reserved - (if j.runRes then 1 else 0) }).NoticesMoved
      (s.giveBackRun slot) := by
  simp only [State.giveBackRun, hj]
  cases hs : j.runRes with
  | true => simpa using State.giveBack_moved (s.setJob slot { j with runRes := false })
  | false =>
    have e : s.setJob slot { j with runRes := false } = s := by
      have : ({ j with runRes := false } : Job) = j := by rw [← hs]
      rw [this]
      exact State.setJob_self hj
    rw [e]
    exact State.NoticesMoved.refl s

/-- A freed job: it leaves its ready list, its reservations come back, its slot is free, and nothing
else but notices moves. -/
theorem State.freeJob_moved {s : State} {slot : Nat} {j : Job} (hj : s.job? slot = some j) :
    (s.without slot j).NoticesMoved (s.freeJob slot) := by
  simp only [State.freeJob, hj]
  set s1 : State := (match j.port with
    | some p => s.leaveReady p slot
    | none => s) with hs1
  have hj1 : s1.job? slot = some j := by
    rw [hs1]
    cases j.port <;> simp [State.leaveReady, hj]
  have hr1 : s1.reports = s.reports := by
    rw [hs1]
    cases j.port <;> simp [State.leaveReady]
  have a := State.giveBackStanding_moved hj1
  have hl := State.job_lt hj1
  have hj2 : (s1.giveBackStanding slot).job? slot = some { j with standing := false } := by
    rw [a.job]
    simp [State.job_setJob_same _ _ hl]
  have b := (((a.setJob slot { j with standing := false, runRes := false }).lessReserved
    (if j.runRes then 1 else 0)).trans (State.giveBackRun_moved hj2)).clearSlot slot
  have e : (s.without slot j).slots = s1.slots.set slot none := by
    simp only [State.without, ← hs1]
    rfl
  refine State.NoticesMoved.trans ?_ b
  refine { pending := rfl, slots := ?_, counter := rfl, pool := rfl, time := rfl, timeSet := rfl
           tick := rfl, pins := rfl, link := rfl, reserved := ?_, queued := ⟨[], ?_, by simp⟩
           count := rfl, lines := fun n => ⟨(s1.line n).notice, rfl⟩
           ports := fun p => ⟨(s1.port p).notice, ?_⟩ }
  · simp [State.without, ← hs1]
  · simp only [State.without, Job.reservations, ← hs1, hr1]
    simp only [State.clearSlot_reports, State.setReports_reports, State.setJob_reports]
    omega
  · simp [State.without, ← hs1, hr1]
  · simp [State.without, ← hs1]

/-! ### The held reply -/

/-- The held reply released: at the tail of the transmit queue where that has room and no RESET is
pending, else waiting for room. -/
theorem State.releaseHeld_held {s : State} {tag : Tag} {lseq : Byte} {n : Nat} (payload : List Byte)
    (h : s.link.slot = .held tag lseq n) :
    s.releaseHeld payload =
      if s.link.tx.length < 4 ∧ s.link.resetPending = false
      then s.setLink { s.link with
        tx := s.link.tx ++ [{ kind := 0xC0, lseq := lseq, payload := payload }], slot := .empty }
      else s.setLink { s.link with
        slot := .waitingRoom { kind := 0xC0, lseq := lseq, payload := payload } } := by
  simp only [State.releaseHeld, h]
  by_cases c : s.link.tx.length < 4 ∧ s.link.resetPending = false
  · simp [c, State.pushReply]
    rfl
  · have : (decide (s.link.tx.length < Config.txSlots) && !s.link.resetPending) = false := by
      simpa [Config.txSlots] using c
    simp only [this, if_neg c]
    rfl

/-- With no reply held there is nothing to release. -/
theorem State.releaseHeld_empty {s : State} (payload : List Byte) (h : s.link.slot = .empty) :
    s.releaseHeld payload = s := by
  simp [State.releaseHeld, h]

end Sys2Proof.Machine
end

