-- ==== Sys2Proof/Laws/Tick.lean ====
section
/-! SUPPORT. The acts of an increment, one by one: an operation on jobs, reports, ports or the link
neither reads nor moves the work that the increment has left, so the evaluation goes job by job, the
event unit's act event by event, and the acts of the other blocks as the commands that name them. -/

namespace Sys2Proof.Machine

/-! ### Operations that leave the work of an increment alone -/

/-- An operation that does the same whatever work the increment has left, and leaves that work as it
stands. -/
def TickFree (f : State → State) : Prop :=
  ∀ (s : State) (w : TickWork), w.ahead = s.tick.ahead → f (s.setTick w) = (f s).setTick w

theorem TickFree.tick {f : State → State} (h : TickFree f) (s : State) : (f s).tick = s.tick := by
  have e : f s = (f s).setTick s.tick := h s s.tick rfl
  have k := congrArg State.tick e
  exact k

theorem TickFree.comp {f g : State → State} (hf : TickFree f) (hg : TickFree g) :
    TickFree (fun s => g (f s)) := fun s w h => by
  show g (f (s.setTick w)) = (g (f s)).setTick w
  rw [hf s w h, hg (f s) w (by rw [hf.tick, h])]

@[simp] theorem State.setPort_setTick (s : State) (p : PortId) (x : Port) (w : TickWork) :
    (s.setTick w).setPort p x = (s.setPort p x).setTick w := by cases p <;> rfl

@[simp] theorem State.noticeReport_setTick (s : State) (src : Source) (w : TickWork) :
    (s.setTick w).noticeReport src = s.noticeReport src := by
  cases src <;> simp [State.noticeReport]

@[simp] theorem State.noticeState_setTick (s : State) (src : Source) (w : TickWork) :
    (s.setTick w).noticeState src = s.noticeState src := by
  cases src <;> simp [State.noticeState]

@[simp] theorem State.noticeEnabled_setTick (s : State) (src : Source) (w : TickWork) :
    (s.setTick w).noticeEnabled src = s.noticeEnabled src := by
  cases src <;> simp [State.noticeEnabled]

@[simp] theorem State.setNotice_setTick (s : State) (src : Source) (x : NoticeState) (w : TickWork) :
    (s.setTick w).setNotice src x = (s.setNotice src x).setTick w := by
  cases src with
  | line n => rfl
  | port p => simp [State.setNotice]

@[simp] theorem State.queueNotice_setTick (s : State) (src : Source) (w : TickWork) :
    (s.setTick w).queueNotice src = (s.queueNotice src).setTick w := by
  simp only [State.queueNotice, State.noticeReport_setTick, State.setTick_reports]
  exact State.setNotice_setTick (s.setReports _) src .queued w

@[simp] theorem State.askNotice_setTick (s : State) (src : Source) (w : TickWork) :
    (s.setTick w).askNotice src = (s.askNotice src).setTick w := by
  simp only [State.askNotice, State.requestNotice, State.noticeEnabled_setTick,
    State.noticeState_setTick, State.queueNotice_setTick, State.setTick_reports]
  split
  · split
    · rfl
    · exact State.setNotice_setTick (s.setReports _) src .owed w
  · rfl

theorem drainOwed_setTick : ∀ (l : List Source) (s : State) (w : TickWork),
    drainOwed l (s.setTick w) = (drainOwed l s).setTick w
  | [], _, _ => rfl
  | src :: rest, s, w => by
    simp only [drainOwed, State.setTick_reports, State.queueNotice_setTick]
    split
    · exact drainOwed_setTick rest _ w
    · rfl

@[simp] theorem State.giveBack_setTick (s : State) (w : TickWork) :
    (s.setTick w).giveBack = s.giveBack.setTick w :=
  drainOwed_setTick _ (s.setReports { s.reports with reserved := s.reports.reserved - 1 }) w

@[simp] theorem State.giveBackStanding_setTick (s : State) (slot : Nat) (w : TickWork) :
    (s.setTick w).giveBackStanding slot = (s.giveBackStanding slot).setTick w := by
  simp only [State.giveBackStanding, State.job_setTick]
  split
  · split
    · exact State.giveBack_setTick (s.setJob slot _) w
    · rfl
  · rfl

@[simp] theorem State.giveBackRun_setTick (s : State) (slot : Nat) (w : TickWork) :
    (s.setTick w).giveBackRun slot = (s.giveBackRun slot).setTick w := by
  simp only [State.giveBackRun, State.job_setTick]
  split
  · split
    · exact State.giveBack_setTick (s.setJob slot _) w
    · rfl
  · rfl

@[simp] theorem State.leaveReady_setTick (s : State) (p : PortId) (slot : Nat) (w : TickWork) :
    (s.setTick w).leaveReady p slot = (s.leaveReady p slot).setTick w := by
  simp [State.leaveReady]

@[simp] theorem State.clearSlot_setTick (s : State) (slot : Nat) (w : TickWork) :
    (s.setTick w).clearSlot slot = (s.clearSlot slot).setTick w := rfl

@[simp] theorem State.setJob_setTick (s : State) (slot : Nat) (j : Job) (w : TickWork) :
    (s.setTick w).setJob slot j = (s.setJob slot j).setTick w := rfl

@[simp] theorem State.setReports_setTick (s : State) (q : ReportQueue) (w : TickWork) :
    (s.setTick w).setReports q = (s.setReports q).setTick w := rfl

@[simp] theorem State.setLink_setTick (s : State) (l : Link) (w : TickWork) :
    (s.setTick w).setLink l = (s.setLink l).setTick w := rfl

@[simp] theorem State.setPool_setTick (s : State) (m : List Host.Cell) (w : TickWork) :
    (s.setTick w).setPool m = (s.setPool m).setTick w := rfl

@[simp] theorem State.freeJob_setTick (s : State) (slot : Nat) (w : TickWork) :
    (s.setTick w).freeJob slot = (s.freeJob slot).setTick w := by
  simp only [State.freeJob, State.job_setTick]
  split
  · rfl
  · split <;> simp

@[simp] theorem State.modifyJob_setTick (s : State) (slot : Nat) (f : Job → Job) (w : TickWork) :
    (s.setTick w).modifyJob slot f = (s.modifyJob slot f).setTick w := by
  simp only [State.modifyJob, State.job_setTick]
  split <;> rfl

@[simp] theorem State.modifyRecord_setTick (s : State) (slot : Nat) (f : RunRecord → RunRecord)
    (w : TickWork) :
    (s.setTick w).modifyRecord slot f = (s.modifyRecord slot f).setTick w :=
  State.modifyJob_setTick s slot _ w

@[simp] theorem State.queueJobReport_setTick (s : State) (slot : Nat) (r : JobReport) (w : TickWork) :
    (s.setTick w).queueJobReport slot r = (s.queueJobReport slot r).setTick w := by
  simp only [State.queueJobReport, State.job_setTick]
  split
  · split
    · rfl
    · split <;> rfl
  · rfl

@[simp] theorem State.releaseHeld_setTick (s : State) (payload : List Byte) (w : TickWork) :
    (s.setTick w).releaseHeld payload = (s.releaseHeld payload).setTick w := by
  simp only [State.releaseHeld, State.setTick_link]
  cases s.link.slot with
  | held tag lseq n =>
    show (if (decide (s.link.tx.length < Config.txSlots) && !s.link.resetPending) = true
      then _ else _) = _
    split <;> rfl
  | empty => rfl
  | waitingRoom r => rfl

@[simp] theorem State.sendHeld_setTick (s : State) (slot : Nat) (r : JobReport) (w : TickWork) :
    (s.setTick w).sendHeld slot r = (s.sendHeld slot r).setTick w := by
  simp [State.sendHeld]

@[simp] theorem State.endWithoutRun_setTick (s : State) (slot : Nat) (o : JobOutcome) (w : TickWork) :
    (s.setTick w).endWithoutRun slot o = (s.endWithoutRun slot o).setTick w := by
  simp only [State.endWithoutRun, State.job_setTick]
  split
  · rfl
  · rename_i j _
    have e : (s.setTick w).endReport j o = s.endReport j o := rfl
    split <;> simp [e]

@[simp] theorem State.closeSingle_setTick (s : State) (slot : Nat) (long : Bool) (w : TickWork) :
    (s.setTick w).closeSingle slot long = (s.closeSingle slot long).setTick w := by
  cases long <;> simp [State.closeSingle]

/-- The end of a run reads of that work only whether the act comes before the time base's event. -/
theorem State.tableRunEnd_tickFree (slot : Nat) : TickFree (fun s => s.tableRunEnd slot) := by
  intro s w h
  have hc : (s.setTick w).comparedTime = s.comparedTime := by
    simp [State.comparedTime, h]
  simp only [State.tableRunEnd, State.job_setTick, hc]
  split
  · rfl
  · rename_i j _
    have e (j : Job) (b : Bool) : (s.setTick w).runReport j b = s.runReport j b := rfl
    simp only [e, State.setJob_setTick, State.queueJobReport_setTick, State.sendHeld_setTick,
      State.giveBackStanding_setTick, State.closeSingle_setTick, State.freeJob_setTick,
      State.modifyJob_setTick]
    split
    · split <;> rfl
    · split <;> rfl

theorem State.triggerJob_tickFree (slot : Nat) (t : Time) (late : Bool) :
    TickFree (fun s => s.triggerJob slot t late) := by
  intro s w h
  simp only [State.triggerJob, State.job_setTick]
  split
  · rfl
  · split
    · split
      · simp [State.joinTail]
      · exact State.tableRunEnd_tickFree slot (s.setJob slot _) w h
    · rfl

theorem State.grantRun_tickFree (slot : Nat) : TickFree (fun s => s.grantRun slot) := by
  intro s w _
  simp only [State.grantRun, State.job_setTick]
  split <;> rfl

theorem State.matchEvery_tickFree (slot : Nat) : TickFree (fun s => s.matchEvery slot) := by
  intro s w h
  simp only [State.matchEvery, State.job_setTick, State.setTick_reports, State.setTick_time]
  cases s.job? slot with
  | none => rfl
  | some j =>
    let c := (j.state == .pending && decide (1 ≤ s.reports.room)) = true
    show (if c then _ else _) = State.setTick (if c then _ else _) w
    by_cases hc : c
    · rw [if_pos hc, if_pos hc]
      exact (State.grantRun_tickFree slot).comp (State.triggerJob_tickFree slot s.time false) s w h
    · rw [if_neg hc, if_neg hc]
      exact State.modifyJob_setTick s slot _ w

@[simp] theorem State.verdict_setTick (s : State) (slot : Nat) (w : TickWork) :
    (s.setTick w).verdict slot = s.verdict slot := rfl

theorem State.evalJob_tickFree (slot : Nat) : TickFree (fun s => s.evalJob slot) := by
  intro s w h
  simp only [State.evalJob, State.verdict_setTick]
  split
  · rfl
  · exact State.endWithoutRun_setTick s slot .expired w
  · exact State.triggerJob_tickFree slot _ _ s w h
  · exact State.matchEvery_tickFree slot s w h

theorem evalJobs_tickFree : ∀ l : List Nat, TickFree (evalJobs l)
  | [], _, _, _ => rfl
  | slot :: rest, s, w, h =>
    (State.evalJob_tickFree slot).comp (evalJobs_tickFree rest) s w h

/-! ### The evaluation, job by job -/

/-- The expiry test: PENDING or READY, with a deadline below the time. -/
theorem Job.expires_iff (j : Job) (now : Time) : j.expires now = true ↔
    (j.state = .pending ∨ j.state = .ready) ∧ ∃ d, j.deadline = some d ∧ d.toNat < now.toNat := by
  cases hd : j.deadline <;> simp [Job.expires, hd]

/-- The AT test: PENDING, with its AT time reached. -/
theorem Job.atDue_iff (j : Job) (now t : Time) : j.atDue now = some t ↔
    j.state = .pending ∧ j.trigger = .atTime t ∧ t.toNat ≤ now.toNat := by
  cases ht : j.trigger with
  | atTime t0 => simp [Job.atDue, ht]; aesop
  | now => simp [Job.atDue, ht]
  | every period phase runs => simp [Job.atDue, ht]
  | event line count => simp [Job.atDue, ht]

/-- The EVERY test: a match of a job that is PENDING, READY or ACTIVE. -/
theorem Job.everyDue_iff (j : Job) (now : Time) : j.everyDue now = true ↔
    (j.state = .pending ∨ j.state = .ready ∨ j.state = .active) ∧
      ∃ period phase runs, j.trigger = .every period phase runs ∧
        now.toNat % period.toNat = phase.toNat := by
  cases ht : j.trigger <;> simp [Job.everyDue, ht, or_assoc]

/-- With nothing left to evaluate the evaluation changes nothing. -/
theorem State.finishTimeBase_nil {s : State} (h : s.tick.evals = []) : s.finishTimeBase = s := by
  simp [State.finishTimeBase, h]

/-- The evaluation takes the first job, then the rest. -/
theorem State.finishTimeBase_cons {s : State} {slot : Nat} {rest : List Nat}
    (h : s.tick.evals = slot :: rest) :
    s.finishTimeBase = ((s.evalJob slot).setEvals rest).finishTimeBase := by
  have e : s.finishTimeBase = (evalJobs rest (s.evalJob slot)).setEvals [] := by
    simp [State.finishTimeBase, h, evalJobs]
  rw [e]
  have k := evalJobs_tickFree rest (s.evalJob slot) { (s.evalJob slot).tick with evals := rest } rfl
  have kt := (evalJobs_tickFree rest).tick (s.evalJob slot)
  cases rest with
  | nil => rw [State.finishTimeBase_nil (by simp)]; rfl
  | cons a as =>
    have : ((s.evalJob slot).setEvals (a :: as)).finishTimeBase
        = (evalJobs (a :: as) ((s.evalJob slot).setEvals (a :: as))).setEvals [] := by
      simp [State.finishTimeBase]
    rw [this]
    have k' : evalJobs (a :: as) ((s.evalJob slot).setEvals (a :: as)) = _ := k
    rw [k']
    simp [State.setEvals, kt]

/-- A job on which the evaluation has no effect is passed over. -/
theorem State.evalJob_stands {s : State} {slot : Nat} (h : s.verdict slot = .stands) :
    s.evalJob slot = s := by
  simp [State.evalJob, h]

/-- Where the evaluation has an effect on the first job, that job is the next. -/
theorem State.nextEval_of_due {s : State} {slot : Nat} {rest : List Nat} {j : Job}
    (he : s.tick.evals = slot :: rest) (hj : s.job? slot = some j) (hv : s.verdict slot ≠ .stands) :
    s.nextEval j.tag = some (slot, rest) := by
  simp [State.nextEval, State.nextDue, he, hv, hj]

/-! ### The event unit's act, event by event -/

theorem State.fireEvent_tickFree (x : Nat × Time) : TickFree (fun s => s.fireEvent x) := by
  intro s w h
  simp only [State.fireEvent, State.job_setTick]
  show (if (s.job? x.1).any Job.onEvent = true then _ else _) = _
  split
  · exact State.triggerJob_tickFree x.1 x.2 false s w h
  · rfl

theorem fireEvents_tickFree : ∀ l : List (Nat × Time), TickFree (fireEvents l)
  | [], _, _, _ => rfl
  | x :: rest, s, w, h => (State.fireEvent_tickFree x).comp (fireEvents_tickFree rest) s w h

/-- What is left of the event unit's act but for the edges: the triggers and the notice requests. -/
def State.setEdges (s : State) (l : List Nat) (edging : Bool) : State :=
  s.setTick { s.tick with edges := l, edging := edging }

theorem State.countEdge_setEdges (s : State) (n : Nat) (t : Time) (slot : Nat) (l : List Nat)
    (b : Bool) :
    (s.setEdges l b).countEdge n t slot = (s.countEdge n t slot).setEdges l b := by
  simp only [State.countEdge, State.setEdges, State.job_setTick]
  cases s.job? slot with
  | none => rfl
  | some j =>
    by_cases c : j.waitsOnLine n = true
    · simp only [if_pos c]
      by_cases d : j.countdown ≤ 1
      · simp only [if_pos d]; rfl
      · simp only [if_neg d]; rfl
    · simp only [if_neg c]

theorem countEdges_setEdges (n : Nat) (t : Time) (l : List Nat) (b : Bool) :
    ∀ (slots : List Nat) (s : State),
      countEdges n t slots (s.setEdges l b) = (countEdges n t slots s).setEdges l b
  | [], _ => rfl
  | slot :: rest, s => by
    simp only [countEdges, State.countEdge_setEdges]
    exact countEdges_setEdges n t l b rest _

/-- The detection of one edge neither reads nor moves the edges that are left. -/
theorem State.detectEdge_setEdges (s : State) (n : Nat) (l : List Nat) (b : Bool) :
    (s.setEdges l b).detectEdge n = (s.detectEdge n).setEdges l b := by
  have hl : (s.setEdges l b).line n = s.line n := rfl
  simp only [State.detectEdge, hl]
  by_cases c : (s.line n).config.edge.takes (s.line n).sampler.polarity = true
  · simp only [if_pos c]
    have := countEdges_setEdges n (s.line n).sampler.runStart l b
    have e (x : Line) : (s.setEdges l b).setLine n x = (s.setLine n x).setEdges l b := rfl
    have k (x : Line) : ((s.setLine n x).setEdges l b).liveSlots = (s.setLine n x).liveSlots := rfl
    rw [e, k, this]
    rfl
  · simp only [if_neg c]; rfl

theorem detectEdges_setEdges (l : List Nat) (b : Bool) : ∀ (lines : List Nat) (s : State),
    detectEdges lines (s.setEdges l b) = (detectEdges lines s).setEdges l b
  | [], _ => rfl
  | n :: rest, s => by
    simp only [detectEdges, State.detectEdge_setEdges]
    exact detectEdges_setEdges l b rest _

theorem askLines_setTick : ∀ (l : List Nat) (s : State) (w : TickWork),
    askLines l (s.setTick w) = (askLines l s).setTick w
  | [], _, _ => rfl
  | n :: rest, s, w => by
    simp only [askLines, State.askNotice_setTick]
    exact askLines_setTick rest _ w

@[simp] theorem askLines_tick (l : List Nat) (s : State) : (askLines l s).tick = s.tick :=
  TickFree.tick (f := askLines l) (fun s w _ => askLines_setTick l s w) s

@[simp] theorem fireEvents_tick (l : List (Nat × Time)) (s : State) :
    (fireEvents l s).tick = s.tick := (fireEvents_tickFree l).tick s

/-- What the act of the event unit comes to: the edges that are left, the triggers that are then left,
the notice requests; of its work nothing is left. -/
theorem State.finishEventUnit_eq (s : State) : s.finishEventUnit =
    let d := detectEdges s.tick.edges s
    (askLines d.tick.asks (fireEvents d.tick.triggers d)).setTick
      { d.tick with edges := [], edging := false, triggers := [], asks := [] } := by
  have h := fireEvents_tickFree (detectEdges s.tick.edges s).tick.triggers
    (detectEdges s.tick.edges s) { (detectEdges s.tick.edges s).tick with edges := [] } rfl
  simp only [State.finishEventUnit, State.setTick_tick, h, State.setTick_setTick, State.closeEvents,
    List.isEmpty_nil, Bool.and_self, if_true, askLines_setTick]

/-- The act after its first edge. -/
theorem State.finishEventUnit_edge {s : State} {n : Nat} {rest : List Nat}
    (h : s.tick.edges = n :: rest) :
    s.finishEventUnit = ((s.setEdges rest true).detectEdge n).finishEventUnit := by
  have e : ((s.setEdges rest true).detectEdge n) = (s.detectEdge n).setEdges rest true :=
    State.detectEdge_setEdges s n rest true
  have d : detectEdges ((s.detectEdge n).setEdges rest true).tick.edges
      ((s.detectEdge n).setEdges rest true)
        = (detectEdges rest (s.detectEdge n)).setEdges rest true :=
    detectEdges_setEdges rest true rest (s.detectEdge n)
  rw [State.finishEventUnit_eq s, e, State.finishEventUnit_eq, d, h]
  have f := fireEvents_tickFree (detectEdges rest (s.detectEdge n)).tick.triggers
    (detectEdges rest (s.detectEdge n))
    { (detectEdges rest (s.detectEdge n)).tick with edges := rest, edging := true } rfl
  simp only [detectEdges, State.setEdges, State.setTick_tick, f, askLines_setTick,
    State.setTick_setTick]

/-- The act after its first trigger, every edge having been detected. -/
theorem State.finishEventUnit_trigger {s : State} {x : Nat × Time} {rest : List (Nat × Time)}
    (he : s.tick.edges = []) (h : s.tick.triggers = x :: rest) :
    s.finishEventUnit =
      ((s.setTick { s.tick with triggers := rest }).fireEvent x).finishEventUnit := by
  obtain ⟨w, hw⟩ : ∃ w : TickWork, w = { s.tick with triggers := rest } := ⟨_, rfl⟩
  have ha : w.ahead = s.tick.ahead := by rw [hw]
  have e : (s.setTick w).fireEvent x = (s.fireEvent x).setTick w :=
    State.fireEvent_tickFree x s w ha
  have f : fireEvents rest ((s.fireEvent x).setTick w) = (fireEvents rest (s.fireEvent x)).setTick w :=
    fireEvents_tickFree rest (s.fireEvent x) w (by rw [(State.fireEvent_tickFree x).tick s, ha])
  have hr : w.triggers = rest := by rw [hw]
  have hd : detectEdges w.edges ((s.fireEvent x).setTick w) = (s.fireEvent x).setTick w := by
    simp [hw, he, detectEdges]
  rw [← hw, State.finishEventUnit_eq s, e, State.finishEventUnit_eq, State.setTick_tick, hd]
  simp only [State.setTick_tick, hr, f, askLines_setTick, State.setTick_setTick]
  simp only [hw, he, detectEdges, h, fireEvents]

/-- The act with no edge and no trigger left is its close. -/
theorem State.finishEventUnit_close {s : State} (he : s.tick.edges = []) (ht : s.tick.triggers = []) :
    s.finishEventUnit = s.closeEvents := by
  have e : s.setTick { s.tick with edges := [] } = s := by rw [← he]; rfl
  have t : s.setTick { s.tick with triggers := [] } = s := by rw [← ht]; rfl
  have d : detectEdges s.tick.edges s = s := by rw [he]; rfl
  have f : fireEvents s.tick.triggers s = s := by rw [ht]; rfl
  dsimp only [State.finishEventUnit] at *
  simp only [d, e, f, t]

/-- A close that may come at once changes nothing of what the act comes to. -/
theorem State.closeEvents_finishEventUnit (s : State) :
    s.closeEvents.finishEventUnit = s.finishEventUnit := by
  by_cases h : s.tick.edges = [] ∧ s.tick.triggers = []
  · rw [State.finishEventUnit_close h.1 h.2]
    have e : s.closeEvents = (askLines s.tick.asks s).setTick
        { s.tick with edges := [], edging := false, triggers := [], asks := [] } := by
      rw [← State.finishEventUnit_close h.1 h.2, State.finishEventUnit_eq]
      simp [h.1, h.2, detectEdges, fireEvents]
    rw [e, State.finishEventUnit_eq]
    simp [detectEdges, fireEvents, askLines]
  · have e : s.closeEvents = s := by
      simp only [State.closeEvents, List.isEmpty_iff, Bool.and_eq_true, if_neg h]
    rw [e]

@[simp] theorem State.closeEvents_edges (s : State) : s.closeEvents.tick.edges = s.tick.edges := by
  unfold State.closeEvents
  split
  · simp
  · rfl

@[simp] theorem State.closeEvents_triggers (s : State) :
    s.closeEvents.tick.triggers = s.tick.triggers := by
  unfold State.closeEvents
  split
  · simp
  · rfl

/-! ### The acts of a port and of the link leave the rest of the increment's work alone -/

@[simp] theorem State.modifyJob_tick (s : State) (slot : Nat) (f : Job → Job) :
    (s.modifyJob slot f).tick = s.tick := by
  unfold State.modifyJob
  split <;> rfl

@[simp] theorem State.modifyRecord_tick (s : State) (slot : Nat) (f : RunRecord → RunRecord) :
    (s.modifyRecord slot f).tick = s.tick := State.modifyJob_tick s slot _

@[simp] theorem State.noteFail_tick (s : State) (r : Run) : (s.noteFail r).tick = s.tick := by
  unfold State.noteFail
  split <;> simp

@[simp] theorem State.tableRunEnd_tick (s : State) (slot : Nat) : (s.tableRunEnd slot).tick = s.tick :=
  (State.tableRunEnd_tickFree slot).tick s

@[simp] theorem State.finishRun_tick (s : State) (p : PortId) (r : Run) (o : JobOutcome)
    (next : PortState) : (s.finishRun p r o next).tick = s.tick := by
  simp [State.finishRun]

@[simp] theorem State.askNotice_tick (s : State) (src : Source) : (s.askNotice src).tick = s.tick :=
  (State.askNotice_moved s src).tick

@[simp] theorem State.setRun_tick (s : State) (p : PortId) (r : Run) :
    (s.setRun p r).tick = s.tick := State.setPortState_tick s p _

@[simp] theorem State.stopHere_tick (s : State) (p : PortId) (r : Run) :
    (s.stopHere p r).tick = s.tick := by
  unfold State.stopHere
  split <;> simp

@[simp] theorem takeSteps_tick (p : PortId) (r : Run) : ∀ (l : List Step) (i : Nat) (s : State),
    (takeSteps p r i l s).tick = s.tick
  | [], i, s => by
    simp only [takeSteps]
    split
    · simp
    · split <;> simp
  | st :: rest, i, s => by
    have ih := takeSteps_tick p r rest
    simp only [takeSteps]
    split
    · simp
    · cases st with
      | pause kind n => cases kind <;> simp only [] <;> first | (split <;> simp) | simp
      | stop => simp only []; split <;> simp [ih]
      | mark => simp [ih]
      | address a d => simp
      | poll a l g => simp
      | write n => simp
      | read n => simp

@[simp] theorem State.nextStep_tick (s : State) (p : PortId) (r : Run) :
    (s.nextStep p r).tick = s.tick := by
  unfold State.nextStep
  split <;> simp

@[simp] theorem State.stretchTimeout_tick (s : State) (p : PortId) :
    (s.stretchTimeout p).tick = s.tick := by
  unfold State.stretchTimeout
  split
  · split <;> simp
  · unfold State.failRecovery
    simp only []
    split <;> simp
  · rfl

@[simp] theorem State.endSettle_tick (s : State) (p : PortId) (ask : Bool) :
    (s.endSettle p ask).tick = s.tick := by
  unfold State.endSettle State.enterIdle State.beginRecovery
  split
  · split <;> simp
  · simp

@[simp] theorem State.takePresence_tick (s : State) (p : PortId) :
    (s.takePresence p).tick = s.tick := by
  unfold State.takePresence
  simp only []
  split
  · split
    · unfold State.losePresence
      split <;> simp [State.enterDetached]
    · unfold State.gainPresence
      split
      · unfold State.enterSettling
        simp only []
        split <;> simp
      · simp
  · simp

@[simp] theorem State.recheck_tick (s : State) (p : PortId) : (s.recheck p).tick = s.tick := by
  unfold State.recheck State.enterIdle State.beginRecovery
  simp only [if_true]
  split
  · simp
  · split <;> simp

@[simp] theorem State.elapseHold_tick (s : State) : s.elapseHold.tick = s.tick := by
  unfold State.elapseHold
  split
  · split
    · have h : ∀ (u : State) (b : List Byte), (u.releaseHeld b).tick = u.tick := fun u b =>
        TickFree.tick (f := fun u => u.releaseHeld b) (fun s w _ => State.releaseHeld_setTick s b w) u
      simp [h]
    · rfl
  · rfl

/-! ### What is due of a block is carried out as the commands that name it -/

theorem State.forcePresence_eq {s : State} (hv : s.tick.evals = []) (he : s.tick.edging = false)
    (p : PortId) :
    s.after (if (s.port p).present = true then .presenceLoss p [] else .presenceGain p)
      = s.forcePresence p := by
  have hb := State.beforeEvent_of_done hv he
  cases hp : (s.port p).present with
  | true => simp [State.after, exec, execPresenceLoss, hb, State.forcePresence, hp, State.passBits]
  | false =>
    simp [State.after, exec, execPresenceGain, hb, State.forcePresence, hp, State.takePresence]

theorem State.forceStretch_eq {s : State} (hv : s.tick.evals = []) (he : s.tick.edging = false)
    (p : PortId) :
    s.after (.stretchTimeout p []) = s.forceStretch p := by
  simp [State.after, exec, execStretchTimeout, State.beforeEvent_of_done hv he, State.forceStretch,
    State.passBits]

theorem State.forceWait_eq {s : State} (hv : s.tick.evals = []) (he : s.tick.edging = false)
    (p : PortId) :
    (match s.run? p with
      | some r => match r.phase with
        | .pollGap => s.after (.pollGapEnd p)
        | .pauseHold => s.after (.pauseHoldEnd p)
        | .pauseFree => s.after (.pauseFreeEnd p)
        | _ => s
      | none => s) = s.forceWait p := by
  have hb := State.beforeEvent_of_done hv he
  unfold State.forceWait
  cases hr : s.run? p with
  | none => rfl
  | some r =>
    cases hp : r.phase <;>
      simp [State.after, exec, execPollGapEnd, execPauseHoldEnd, execPauseFreeEnd, hb, hr, hp,
        State.pollGapDue, State.pauseHoldDue, State.pauseFreeDue]

theorem State.forceCheck_eq {s : State} (hv : s.tick.evals = []) (he : s.tick.edging = false)
    (p : PortId) :
    (match (s.port p).state with
      | .settling _ => s.after (.settleEnd p)
      | .stuck _ => s.after (.stuckRecheck p)
      | _ => s) = s.forceCheck p := by
  have hb := State.beforeEvent_of_done hv he
  unfold State.forceCheck
  cases hs : (s.port p).state <;>
    simp [State.after, exec, execSettleEnd, execStuckRecheck, hb, Port.settleDue, Port.recheckDue, hs]

theorem State.forceTracker_eq {s : State} (hv : s.tick.evals = []) (he : s.tick.edging = false)
    (p : PortId) : s.after (.trackerTimeout p) = s.forceTracker p := by
  simp [State.after, exec, execTrackerTimeout, State.beforeEvent_of_done hv he, State.forceTracker]

@[simp] theorem State.forcePresence_tick (s : State) (p : PortId) :
    (s.forcePresence p).tick = s.tick := by
  unfold State.forcePresence
  split <;> simp

@[simp] theorem State.forceStretch_tick (s : State) (p : PortId) :
    (s.forceStretch p).tick = s.tick := by
  unfold State.forceStretch
  split <;> simp

@[simp] theorem State.forceWait_tick (s : State) (p : PortId) : (s.forceWait p).tick = s.tick := by
  unfold State.forceWait
  split
  · split
    · simp [State.endPollGap]
    · split <;> simp
  · rfl

@[simp] theorem State.forceCheck_tick (s : State) (p : PortId) : (s.forceCheck p).tick = s.tick := by
  unfold State.forceCheck
  split
  · simp
  · split <;> simp

/-- The acts of the report queue and the host link that are due, as the commands that name them. -/
theorem State.forceLink_eq {s : State} (hv : s.tick.evals = []) (he : s.tick.edging = false) :
    ((s.after .attnPulseEnd).after .holdLimit).after .gapTimeout = s.forceLink := by
  let s1 := if s.reports.pulseDue then s.setReports s.reports.endPulse else s
  let s2 := if s1.link.holdDue then s1.elapseHold else s1
  have t1 : s1.tick = s.tick := by simp only [s1]; split <;> rfl
  have t2 : s2.tick = s.tick := by simp only [s2]; split <;> simp [t1]
  have e1 : s.after .attnPulseEnd = s1 := by
    simp [State.after, exec, execAttnPulseEnd, State.beforeEvent_of_done hv he, s1]
  have e2 : s1.after .holdLimit = s2 := by
    simp [State.after, exec, execHoldLimit, s2,
      State.beforeEvent_of_done (s := s1) (by rw [t1, hv]) (by rw [t1, he])]
  have e3 : s2.after .gapTimeout = if s2.link.gapDue then s2.setLink s2.link.dropFrame else s2 := by
    simp [State.after, exec, execGapTimeout,
      State.beforeEvent_of_done (s := s2) (by rw [t2, hv]) (by rw [t2, he])]
  rw [e1, e2, e3]
  rfl

/-- What is left of an increment is carried out block by block. -/
theorem State.finishTick_eq (s : State) : s.finishTick =
    ((((s.beforeEvent.takeAct .eventUnit).takeAct (.port .a)).takeAct (.port .b)).takeAct
      .link) := by
  simp only [State.finishTick, List.foldl_cons, List.foldl_nil]

end Sys2Proof.Machine
end

