-- ==== Sys2Proof/WellFormed.lean ====
section
/-! DEFINITION. Which commands name something that exists: a line 0 to 7 (R66), a tag 1 to 65535 (R2),
the eight data bits of a byte (R162), one to nine readings of SDA in a byte on a bus (R127), and at most
ten in a recovery, or the line check (R117). -/

namespace Sys2Proof

/-- Whether a command's operands are within their ranges. An ill-formed command is about a line or a
job that cannot exist, and `exec` gives it no effect of its own; readings beyond the ninth of a byte have
none either. -/
def Instr.wellFormed (i : Instr) : Bool :=
  match i with
  | .deadlineExpiry tag => tag != 0
  | .atTrigger tag => tag != 0
  | .everyMatch tag => tag != 0
  | .eventTrigger tag => tag != 0
  | .edgeDetected line => decide (line < Config.eventLines)
  | .byteReceived data _ => decide (data.length = 8)
  | .recoveryEnd _ sda lines =>
    decide (sda.length ≤ Config.recoveryPulses + 1) && (!sda.isEmpty || lines.isSome)
  | .address _ bits => !bits.isEmpty && decide (bits.length ≤ 9)
  | .poll _ bits => !bits.isEmpty && decide (bits.length ≤ 9)
  | .write _ bits => !bits.isEmpty && decide (bits.length ≤ 9)
  | .read _ bits => !bits.isEmpty && decide (bits.length ≤ 9)
  | .presenceLoss _ bits => decide (bits.length ≤ 9)
  | .stretchTimeout _ bits => decide (bits.length ≤ 9)
  | .arbitrationLoss _ bits => decide (bits.length ≤ 9)
  | .pinReset _ | .gapTimeout | .unknownKind | .ping | .getSummary | .setLink
  | .reset | .resetTakesEffect | .getTime | .setTime | .configLine | .getCapture | .clearCapture
  | .configPort _ | .getPort | .submit | .cancel _ | .jobStatus | .fetch | .release | .readReports
  | .replySent | .holdLimit | .tickIncrement _ | .presenceGain _ | .settleEnd _
  | .stuckRecheck _ | .busStartSeen _ | .busStopSeen _ | .trackerTimeout _ | .dispatch _
  | .runStart _ _ | .start _ | .pollGapEnd _ | .stop _ | .pauseHoldEnd _ | .pauseFreeEnd _
  | .attnPulseEnd => true

end Sys2Proof
end

