-- ==== Sys2Proof/Tests/Slice0.lean ====
section
/-! SUPPORT. Tests: ill-formed commands, the manual's worked numbers, single steps, and for every
statement with hypotheses a state and operands that meet them (`test_meets_…`). -/

-- One test after another: checked all at once they would start a thread each.
set_option Elab.async false

namespace Sys2Proof.Tests
open Sys2Proof.Machine

/-! ## Ill-formed commands -/

theorem test_tag0_deadlineExpiry : (Instr.deadlineExpiry 0).wellFormed = false := by decide
theorem test_tag0_atTrigger : (Instr.atTrigger 0).wellFormed = false := by decide
theorem test_tag0_everyMatch : (Instr.everyMatch 0).wellFormed = false := by decide
theorem test_tag0_eventTrigger : (Instr.eventTrigger 0).wellFormed = false := by decide
theorem test_line8_edgeDetected : (Instr.edgeDetected 8).wellFormed = false := by decide
theorem test_line7_edgeDetected : (Instr.edgeDetected 7).wellFormed = true := by decide
theorem test_noReading_recoveryEnd :
    (Instr.recoveryEnd .a [] none).wellFormed = false := by decide
theorem test_elevenReadings_recoveryEnd :
    (Instr.recoveryEnd .a (List.replicate 11 false) none).wellFormed = false := by decide
theorem test_tenReadings_recoveryEnd :
    (Instr.recoveryEnd .a (List.replicate 10 false) none).wellFormed = true := by decide
theorem test_lineCheckAlone_recoveryEnd :
    (Instr.recoveryEnd .a [] (some ⟨true, true⟩)).wellFormed = true := by decide
theorem test_sevenBits_byteReceived :
    (Instr.byteReceived (List.replicate 7 false) true).wellFormed = false := by decide
theorem test_eightBits_byteReceived :
    (Instr.byteReceived (List.replicate 8 false) true).wellFormed = true := by decide

/-- The rows of a byte on a bus bring one to nine bits of it. -/
theorem test_bits_address :
    (Instr.address .a []).wellFormed = false ∧ (Instr.address .a [true]).wellFormed = true ∧
    (Instr.address .a (List.replicate 9 true)).wellFormed = true ∧
    (Instr.address .a (List.replicate 10 true)).wellFormed = false := by decide
theorem test_bits_poll :
    (Instr.poll .a []).wellFormed = false ∧ (Instr.poll .a (List.replicate 9 true)).wellFormed = true ∧
    (Instr.poll .a (List.replicate 10 true)).wellFormed = false := by decide
theorem test_bits_write :
    (Instr.write .a []).wellFormed = false ∧ (Instr.write .a (List.replicate 9 true)).wellFormed = true ∧
    (Instr.write .a (List.replicate 10 true)).wellFormed = false := by decide
theorem test_bits_read :
    (Instr.read .a []).wellFormed = false ∧ (Instr.read .a (List.replicate 9 true)).wellFormed = true ∧
    (Instr.read .a (List.replicate 10 true)).wellFormed = false := by decide
theorem test_bits_before_events :
    (Instr.presenceLoss .a []).wellFormed = true ∧
    (Instr.presenceLoss .a (List.replicate 10 true)).wellFormed = false ∧
    (Instr.stretchTimeout .a []).wellFormed = true ∧
    (Instr.stretchTimeout .a (List.replicate 10 true)).wellFormed = false ∧
    (Instr.arbitrationLoss .a []).wellFormed = true ∧
    (Instr.arbitrationLoss .a (List.replicate 10 true)).wellFormed = false := by decide

/-! ## Small states -/

/-- A request of kind `k`. -/
def req (k : Kind) (p : List Byte) : Request := { kind := k.code, lseq := 7, payload := p }

/-- A request of kind `k` is in hand. -/
def ask (k : Kind) (p : List Byte) (s : State) : State :=
  { s with link := { s.link with inHand := some (req k p) } }

/-- The reply of the job with this tag is held. -/
def holding (tag : Tag) (s : State) : State :=
  { s with link := { s.link with slot := .held tag 5 0 } }

/-- A READY job of port A that writes one byte. -/
def job : Job where
  tag         := 1
  admission   := 0
  port        := some .a
  trigger     := .now
  deadline    := none
  retries     := 1
  retriesLeft := 1
  unbreakable := false
  holdReply   := false
  replyHeld   := false
  steps       := [.address 0x48 .w, .write 1]
  writeLen    := 1
  readTotal   := 0
  blocks      := [0]
  state       := .ready
  ending      := false
  stopping    := false
  countdown   := 0
  runsDone    := 0
  missed      := 0
  standing    := true
  runRes      := false
  run         := RunRecord.cleared

/-- The job ACTIVE at a step. -/
def active (steps : List Machine.Step) (cur : Nat) : Job :=
  { job with state := .active, steps := steps, run := { job.run with curStep := cur } }

/-- One live job, in slot 0, at time 100. -/
def withJob (j : Job) : State :=
  { State.reset with
    slots := some j :: List.replicate 31 none
    counter := 1
    time := 100
    reports := { ReportQueue.reset with reserved := j.reservations } }

/-- Port A with a mode, in a state. -/
def portA (mode : PortMode) (x : PortState) (s : State) : State :=
  { s with portA := { s.portA with settings := { s.portA.settings with mode := mode }, state := x } }

/-- A run of slot 0 in a phase. -/
def run (phase : Phase) (held : Bool) : Run :=
  { Run.begin 0 with phase := phase, held := held, started := held }

/-- Port A, SOLE, running the job in slot 0 in a phase. -/
def running (j : Job) (phase : Phase) (held : Bool) : State :=
  portA .sole (.running (run phase held)) (withJob j)

/-- Port A, presence REQUIRE, after 64 samples of the other level. -/
def presenceDue (present : Bool) (settle : BitVec 16) (s : State) : State :=
  { s with portA := { s.portA with
    present := present
    presRun := 64
    settings := { s.portA.settings with presence := .require, settleTime := settle } } }

/-- A job waiting for a trigger. -/
def waits (port : Option PortId) (tr : Trigger) : Job :=
  { job with state := .pending, trigger := tr, port := port
             runRes := false, steps := if port.isNone then [] else job.steps }

/-- Both lines high. -/
def high : Levels := { scl := true, sda := true }

/-- Samples of idle pins, with EV0 low and a wait for SCL on port A. -/
def idlePins (wait : SclWait) : Samples :=
  { ev := 0x3E, a := { lines := high, prs := true, wait := wait }
    b := { lines := high, prs := true, wait := .none } }

/-- The readings of a byte's eight data bits, the most significant first, then of its ninth. -/
def octet (b : Byte) (ninth : List Bool) : List Bool :=
  [b.getLsbD 7, b.getLsbD 6, b.getLsbD 5, b.getLsbD 4, b.getLsbD 3, b.getLsbD 2, b.getLsbD 1,
    b.getLsbD 0] ++ ninth

/-- The state a command gives. -/
def after (i : Instr) (s : State) : State := s.after i

theorem quiet {s : State} (h : s.tick = TickWork.none) : s.Quiet := by
  unfold State.Quiet
  rw [h]
  exact ⟨rfl, rfl, rfl⟩

theorem ask_may (k : Kind) (p : List Byte) {s : State} (hq : s.Quiet) (ht : s.link.tx = [])
    (hs : s.link.slot = .empty) : (ask k p s).MayCarryOut k (req k p) :=
  ⟨⟨hq, rfl, rfl, by simp [ask, ht], by simp [ask, hs]⟩, hs⟩

theorem ask_may_reset (k : Kind) (p : List Byte) : (ask k p State.reset).MayCarryOut k (req k p) :=
  ask_may k p (quiet rfl) rfl rfl

theorem ask_may_job (k : Kind) (p : List Byte) (j : Job) :
    (ask k p (withJob j)).MayCarryOut k (req k p) := ask_may k p (quiet rfl) rfl rfl

theorem ask_may_held (k : Kind) (p : List Byte) (tag : Tag) (s : State) (hq : s.Quiet)
    (ht : s.link.tx = []) : (ask k p (holding tag s)).MayTake k (req k p) :=
  ⟨hq, rfl, rfl, by simp [ask, holding, ht], by simp [ask, holding]⟩

/-- A line with an edge to be detected, its run begun at 96. -/
def edgeOn (n : Nat) (e : EdgeSetting) (m : CaptureMode) (settled : SettledLevel) (count : Nat) :
    State :=
  let s := withJob { waits (some .a) (.event n 2) with countdown := 2 }
  { s.setLine n { Line.reset with
      config := { edge := e, mode := m, filter := 3, noticeEn := true }
      sampler := { settled := settled, runCount := 4, runStart := 96 }
      capture := { held := decide (count ≠ 0), time := 5, polarity := .rising, count := count } } with
    tick := { TickWork.none with edges := [n] } }

/-- What the event unit's act leaves of the host link and of the increment's work, with an edge of EV0 to be
detected. -/
theorem may_afterEdge (k : Kind) (p : List Byte) :
    (ask k p (edgeOn 0 .both .last .low 0)).finishEventUnit.MayTake k (req k p) := by
  refine ⟨⟨?_, ?_, ?_⟩, ?_, rfl, ?_, ?_⟩
  · rfl
  · rfl
  · rfl
  · rfl
  · show 0 < 4
    decide
  · exact fun _ => nofun

theorem getD_none (m n : Nat) : (List.replicate m (none : Option Job)).getD n none = none := by
  by_cases h : n < m <;> simp [List.getD_eq_getElem?_getD, h]

theorem job_of_withJob {j j' : Job} {i : Nat} (h : (withJob j).job? i = some j') :
    i = 0 ∧ j' = j := by
  cases i with
  | zero => exact ⟨rfl, (Option.some.inj h).symm⟩
  | succ n =>
    have : (withJob j).job? (n + 1) = none := getD_none 31 n
    rw [this] at h
    cases h

theorem tableLaw_withJob {j : Job} (ht : j.tag ≠ 0) (hb : j.blocks = [0])
    (hl : (j.writeLen + j.readTotal + 31) / 32 = 1) : (withJob j).TableLaw := by
  refine ⟨by simp [withJob], ?_, ?_⟩
  · intro i j' h
    obtain ⟨-, rfl⟩ := job_of_withJob h
    exact ⟨ht, by simp [hb, hl], by simp [hb], by simp [hb]⟩
  · intro i i' j1 j2 h h' hne
    exact absurd ((job_of_withJob h).1.trans (job_of_withJob h').1.symm) hne

/-- A DONE long job with four read bytes received. -/
def doneJob : Job :=
  { job with
    state := .done, readTotal := 49, writeLen := 0, blocks := [0, 1], standing := false
    run := { job.run with received := 4, outcome := some .done } }

theorem table_doneJob : (withJob doneJob).TableLaw := by
  refine ⟨by simp [withJob], ?_, ?_⟩
  · intro i j' h
    obtain ⟨-, rfl⟩ := job_of_withJob h
    exact ⟨by decide, by decide, by decide, by decide⟩
  · intro i i' j1 j2 h h' hne
    exact absurd ((job_of_withJob h).1.trans (job_of_withJob h').1.symm) hne

theorem dispatch_doneJob : (withJob doneJob).DispatchLaw := by
  have e : ∀ p, ((withJob doneJob).port p).ready = [] ∧ ((withJob doneJob).port p).state = .off := by
    intro p; cases p <;> exact ⟨rfl, rfl⟩
  refine ⟨fun p => by simp [(e p).1], fun p i => ?_, fun p r h => ?_, fun i j h ha => ?_,
    fun i j h => ?_⟩
  · simp only [(e p).1, List.not_mem_nil, false_iff]
    rintro ⟨j, hj, hs, -⟩
    obtain ⟨-, rfl⟩ := job_of_withJob hj
    exact absurd hs (by decide)
  · rw [(e p).2] at h
    cases h
  · obtain ⟨-, rfl⟩ := job_of_withJob h
    exact absurd ha (by decide)
  · obtain ⟨-, rfl⟩ := job_of_withJob h
    exact ⟨by decide, by decide, by decide, by decide⟩

/-! ## Numbers of the manual -/

/-- The CRC of the nine bytes "123456789" (R163). -/
theorem test_crc_check : crc [0x31, 0x32, 0x33, 0x34, 0x35, 0x36, 0x37, 0x38, 0x39] = 0x29B1 := by
  decide +kernel

/-! ## Single steps -/

/-- Whether the state a command gives has a property. -/
def gives (i : Instr) (s : State) (f : State → Bool) : Bool := f (after i s)

theorem test_ping_replies : gives .ping (ask .ping [] State.reset) (fun t =>
    t.link.tx == [⟨0x81, 7, [0, 0x4E, 0x4B, 0x02, 0x84, 0x01, 32, 64, 48, 8, 2, 0, 0, 0]⟩]) = true := by
  decide +kernel

theorem test_runEnd_short : (running (active [.address 0x48 .w, .write 1] 2) (.stop .implied) true
    |> fun s => gives (.stop .a) s (fun t => t.slots == List.replicate 32 none
      && t.portA.state == .idle && t.reports.reserved == 0 && t.reports.queued.length == 1)) = true := by
  decide +kernel

/-! ## Hypotheses met: the machine and the host link -/

theorem test_meets_StepRunsTheFrontCommand : State.reset.pending = [] := rfl

theorem test_meets_TheEvaluationIsTakenAsAWhole : Instr.ping.followsTheEvaluation = true := rfl

/-- The OK reply of a RESET. -/
def okReset : Reply := { kind := 0x8F, lseq := 7, payload := [0] }

theorem test_meets_ResetsSetTheResetValues :
    let s : State := { State.reset with link := { State.reset.link with
      resetPending := true, tx := [okReset] } }
    s.Quiet ∧ s.link.resetPending = true ∧ s.link.tx = [okReset] := ⟨quiet rfl, rfl, rfl⟩

theorem test_meets_OnlyTheTimeBaseMovesTheTime :
    (∀ i, Instr.ping ≠ .tickIncrement i) ∧ Instr.ping ≠ .setTime ∧
      ∀ r, Instr.ping ≠ .pinReset r := ⟨fun _ => nofun, nofun, fun _ => nofun⟩

/-- The parser in a state, one increment before the gap ends a frame. -/
def parsing (x : Parser) : State :=
  { State.reset with link := { State.reset.link with parser := x, gap := 127 } }

theorem test_meets_ParserTakesEachByteByItsState (x : Parser) :
    (parsing x).Quiet ∧ ((parsing x).link.parser ≠ .hunt → (parsing x).link.gap < 128) ∧
      (parsing x).link.parser = x := ⟨quiet rfl, fun _ => by show 127 < 128; decide, rfl⟩

/-- The data bits of a byte as they come. -/
def line (b : Byte) : List Bool := (List.range 8).map (fun k => b.getLsbD k)

/-- SOF opens a frame (its bits written out), a stop bit that reads low ends one, seven bits are none. -/
theorem test_parser_bits :
    gives (.byteReceived [true, false, true, false, false, true, false, true] true) (parsing .hunt)
      (fun t => t.link.parser == .length none) ∧
    gives (.byteReceived (line 0) false) (parsing (.length none))
      (fun t => t.link.parser == .hunt) ∧
    gives (.byteReceived (List.replicate 7 false) false) (parsing (.length none))
      (fun t => t.link.parser == .length none) := by decide +kernel

theorem test_parser_lengthBounds :
    gives (.byteReceived (line 1) true) (parsing (.length (some 0)))
      (fun t => t.link.parser == .hunt) ∧
    gives (.byteReceived (line 2) true) (parsing (.length (some 0)))
      (fun t => t.link.parser == .body 2 []) ∧
    gives (.byteReceived (line 66) true) (parsing (.length (some 1)))
      (fun t => t.link.parser == .body 322 []) ∧
    gives (.byteReceived (line 67) true) (parsing (.length (some 1)))
      (fun t => t.link.parser == .hunt) := by decide +kernel

theorem test_meets_CountsAtTheirLimitEndWhatTheyTime :
    (let s : State := { parsing (.length none) with link := { (parsing (.length none)).link with
        gap := 128 } };
      s.Quiet ∧ s.link.parser ≠ .hunt ∧ 128 ≤ s.link.gap) ∧
    (let s : State := { State.reset with reports := { ReportQueue.reset with pulse := some 64 } };
      s.Quiet ∧ s.reports.pulse = some 64) ∧
    (let s : State := { withJob job with link := { (withJob job).link with
        slot := .held 1 5 1024, holdLimit := 1 } };
      s.Quiet ∧ s.link.holdLimit * 1024 ≤ 1024 ∧ s.findSlot 1 = some 0 ∧ s.job? 0 = some job) := by
  refine ⟨⟨quiet rfl, by decide, by decide⟩, ⟨quiet rfl, rfl⟩, quiet rfl, by decide,
    by decide +kernel, rfl⟩

theorem test_meets_TheLinkChecksEachRequestFirst :
    (let s : State := { State.reset with link := { State.reset.link with
        inHand := some ⟨0x80, 7, []⟩ } };
      s.Quiet ∧ s.link.inHand = some ⟨0x80, 7, []⟩ ∧ s.link.tx.length < 4 ∧
      (∀ w, s.link.slot ≠ .waitingRoom w) ∧ (0x80 : Byte) ∉ ([0x01, 0x02, 0x03, 0x0F, 0x10, 0x11,
        0x20, 0x21, 0x22, 0x30, 0x31, 0x40, 0x41, 0x42, 0x43, 0x44, 0x50] : List Byte)) ∧
    (Instr.carriesOut .getPort .getPort ∧
      (ask .getPort [1, 2] (holding 1 State.reset)).MayTake .getPort (req .getPort [1, 2]) ∧
      (req .getPort [1, 2]).payload.length ≠ Kind.getPort.payloadBytes) ∧
    ((ask .getPort [1] (holding 1 State.reset)).MayTake .getPort (req .getPort [1]) ∧
      (req .getPort [1]).payload.length = Kind.getPort.payloadBytes ∧
      (ask .getPort [1] (holding 1 State.reset)).link.slot = .held 1 5 0) :=
  ⟨⟨quiet rfl, rfl, by decide, fun _ => nofun, by decide⟩,
   ⟨rfl, ask_may_held _ _ _ _ (quiet rfl) rfl, by decide⟩, ask_may_held _ _ _ _ (quiet rfl) rfl, rfl, rfl⟩

/-- A CONFIG_LINE whose payload is too short, taken while an edge of EV0 is to be detected, which the event
unit detects first. -/
theorem test_meets_TheLinkChecksEachRequestFirst_edges :
    (ask .configLine [0] (edgeOn 0 .both .last .low 0)).Quiet ∧
    (ask .configLine [0] (edgeOn 0 .both .last .low 0)).tick ≠ TickWork.none ∧
    (ask .configLine [0] (edgeOn 0 .both .last .low 0)).finishEventUnit.MayTake .configLine
      (req .configLine [0]) ∧
    Instr.carriesOut .configLine .configLine :=
  ⟨⟨rfl, rfl, rfl⟩, by decide, may_afterEdge _ _, rfl⟩

theorem test_meets_PingAndGetSummaryAnswerTheirTables :
    (ask .ping [] State.reset).MayTake .ping (req .ping []) ∧
    (ask .getSummary [] (holding 1 State.reset)).MayTake .getSummary (req .getSummary []) :=
  ⟨(ask_may_reset _ _).1, ask_may_held _ _ _ _ (quiet rfl) rfl⟩

/-- A SET_LINK meets its statement with any three bytes; the bounds of the three fields follow. -/
theorem test_meets_SetLinkReplacesItsSettings (a b c : Byte) :
    (ask .setLink [a, b, c] State.reset).MayCarryOut .setLink (req .setLink [a, b, c]) :=
  ask_may_reset _ _

theorem test_setLink_bounds :
    gives .setLink (ask .setLink [0, 2, 8] State.reset)
      (fun t => t.link.tx.map Reply.payload == [[0x11, 0, 0]]) ∧
    gives .setLink (ask .setLink [1, 2, 8] State.reset)
      (fun t => t.link.tx.map Reply.payload == [[0x11, 0, 1]]) ∧
    gives .setLink (ask .setLink [1, 1, 8] State.reset)
      (fun t => t.link.tx.map Reply.payload == [[0x11, 0, 2]]) ∧
    gives .setLink (ask .setLink [1, 1, 7] State.reset)
      (fun t => t.link.holdLimit == 1 && t.reports.attnMode == .pulse) := by decide +kernel

/-- A held reply that waits for room behind one other. -/
def waiting (pending : Bool) : State :=
  { State.reset with link := { State.reset.link with
    tx := [okReset], slot := .waitingRoom okReset, resetPending := pending } }

theorem test_meets_RepliesLeaveFromTheHead :
    (ask .reset [] State.reset).MayTake .reset (req .reset []) ∧
    ((waiting false).Quiet ∧ (waiting false).link.tx = okReset :: [] ∧
      (waiting false).link.resetPending = false ∧
      (waiting false).link.slot = .waitingRoom okReset) ∧
    (waiting true).link.resetPending = true :=
  ⟨(ask_may_reset _ _).1, ⟨quiet rfl, rfl, rfl, rfl⟩, rfl⟩

/-- The levels of TXD over a reply (R162): SOF A5h first, start bit, least significant bit, stop bit; and
at rest before and after it. -/
theorem test_txd_levels :
    let s : State := { State.reset with link := { State.reset.link with tx := [okReset] } }
    gives .replySent s (fun t => t.link.sent.length == 80
      && t.link.sent.take 20 == [false, true, false, true, false, false, true, false, true, true,
        false, false, false, false, false, false, false, false, false, true]
      && t.link.txdAtRest == some true && s.link.txdAtRest == none) = true := by decide +kernel

/-! ## Hypotheses met: the time base and the event unit -/

/-- With nothing of an increment left, what the increment leaves is the state itself. -/
theorem finishTick_ask (p : List Byte) :
    (ask .setTime p State.reset).finishTick = ask .setTime p State.reset :=
  State.finishTick_of_nothingDue rfl (fun q => by
    cases q <;> exact State.forcePort_of_nothingDue (decide_eq_false (show ¬64 ≤ 0 by omega))
      (decide_eq_false (show ¬1638 ≤ 0 by omega)) rfl rfl rfl rfl) rfl

theorem test_meets_TimeRequestsReadAndSetTheTime (p : List Byte) :
    (ask .getTime [] State.reset).MayCarryOut .getTime (req .getTime []) ∧
    ((ask .setTime p State.reset).finishTick.MayCarryOut .setTime (req .setTime p) ∧
      (ask .setTime p State.reset).finishTick.time = (ask .setTime p State.reset).time) := by
  rw [finishTick_ask]
  exact ⟨ask_may_reset _ _, ask_may_reset _ _, rfl⟩

/-- Setting the time to 131,072 (section 11.1). -/
theorem test_setTime_absolute : gives .setTime
    (ask .setTime [0, 0, 0, 0, 2, 0, 0] State.reset)
    (fun t => t.time == 131072 && t.timeSet) = true := by decide +kernel

/-- The most negative adjustment, from time 0. -/
theorem test_setTime_adjust : gives .setTime
    (ask .setTime [1, 0, 0, 0x80, 0, 0, 0] State.reset)
    (fun t => t.time == 0xFFFF80000000) = true := by decide +kernel

/-- A notice that the present increment brings about carries the time before a SET_TIME. -/
theorem test_setTime_afterTheIncrement : gives .setTime
    (ask .setTime [0, 0, 0, 0, 2, 0, 0] (presenceDue true 1 (portA .sole .idle (withJob job))))
    (fun t => t.time == 131072 && t.portA.state == .detached
      && t.reports.queued == [.port .a .detached 100]) = true := by decide +kernel

theorem test_meets_TickRaisesTheTimeAndTheDurations : State.reset.finishTick = State.reset := by
  decide +kernel

/-- An EVERY job, an AT job and an EVENT job with a deadline, the youngest in the lowest slot. -/
def threeJobs : State :=
  { State.reset with
    counter := 3
    slots := [some { waits (some .a) (.every 64 0 0) with tag := 3, admission := 2 },
              some { waits (some .a) (.atTime 9) with tag := 2, admission := 1 },
              some { waits (some .a) (.event 0 1) with countdown := 1, deadline := some 5 }]
              ++ List.replicate 29 none }

/-- What an increment leaves to evaluate, in admission order (R56). -/
theorem test_tick_evals : gives (.tickIncrement ⟨idlePins .none, []⟩) threeJobs
    (fun t => t.tick.evals == [2, 1, 0]) = true := by decide +kernel

/-- An edge of EV0 to be detected at the next sample, for the EVENT job of `threeJobs`. -/
def edgeNext : State :=
  threeJobs.setLine 0 { Line.reset with
    config := { edge := .both, mode := .last, filter := 0, noticeEn := true }
    sampler := { settled := .high, runCount := 0, runStart := 0 } }

/-- The event unit's act before and after the time base's event of the increment to time 1 (R56): the
edge is sampled at 1 in both, and a notice of it carries the increment's reading. -/
theorem test_tick_early :
    gives (.tickIncrement ⟨idlePins .none, [.eventUnit]⟩) edgeNext (fun t =>
      (t.job? 2).any (fun j => j.state == .ready && j.run.triggerTime == 1)
        && t.tick.evals == [2, 1, 0] && t.reports.queued == [.event 0 .falling 1 1 1]) ∧
    gives (.tickIncrement ⟨idlePins .none, []⟩) edgeNext (fun t =>
      (t.job? 2).any (fun j => j.state == .pending) && t.tick.edges == [0]) := by decide +kernel

/-- Presence samples up to the one before the last. -/
def almostPresent (mode : PortMode) : State :=
  { State.reset with portA := { State.reset.portA with
    presRun := 63
    settings := { State.reset.portA.settings with mode := mode, presence := .require } } }

theorem test_meets_TickSamplesThePins :
    State.reset.finishTick = State.reset ∧ (almostPresent .sole).finishTick = almostPresent .sole ∧
    (almostPresent .off).finishTick = almostPresent .off ∧ State.reset.available 7 = true ∧
    (portA .sole .idle State.reset).available 7 = true ∧
    ({ State.reset with portB := { State.reset.portB with settings :=
      { State.reset.portB.settings with mode := .sole } } } : State).available 6 = false := by
  decide +kernel

/-- The wait for SCL: begun, going on, ended; a port that may not wait counts none (R125). -/
theorem test_tick_stretch :
    let s := running (active job.steps 1) .write true
    let s5 : State := { s with portA := { s.portA with stretch := 5, drive := Drive.holding } }
    gives (.tickIncrement ⟨idlePins .begun, []⟩) s5 (fun t => t.portA.stretch == 1) ∧
    gives (.tickIncrement ⟨idlePins .goesOn, []⟩) s5
      (fun t => t.portA.stretch == 6 && t.portA.drive == { scl := .released, sda := .low }) ∧
    gives (.tickIncrement ⟨idlePins .none, []⟩) s5
      (fun t => t.portA.stretch == 0 && t.portA.drive == Drive.holding) ∧
    gives (.tickIncrement ⟨idlePins .goesOn, []⟩) (portA .sole .idle State.reset)
      (fun t => t.portA.stretch == 0) := by decide +kernel

/-- An edge is to be detected at a run of filter + 1 samples and not before (R71). -/
theorem test_tick_edges :
    let s (n : Nat) := State.reset.setLine 0 { Line.reset with
      config := { edge := .both, mode := .last, filter := 2, noticeEn := false }
      sampler := { settled := .high, runCount := n, runStart := 90 } }
    gives (.tickIncrement ⟨idlePins .none, []⟩) (s 1) (fun t => t.tick.edges == []) ∧
    gives (.tickIncrement ⟨idlePins .none, []⟩) (s 2)
      (fun t => t.tick.edges == [0] && (t.line 0).sampler.runStart == 90) := by decide +kernel

/-- An increment that still has the job in slot 0 to evaluate. -/
def evaluating (j : Job) : State :=
  { withJob j with tick := { TickWork.none with evals := [0] } }

theorem evaluates (j : Job) : (evaluating j).Evaluates j.tag 0 [] j := ⟨rfl, rfl, rfl, rfl, rfl⟩

/-- An increment whose edges have triggered the job in slot 0. -/
def triggering (j : Job) : State :=
  { withJob j with tick := { TickWork.none with triggers := [(0, 90)], edging := true } }

theorem test_meets_AtAndEventTriggersMakeTheJobReady :
    ((evaluating (waits (some .a) (.atTime 100))).Evaluates 1 0 [] (waits (some .a) (.atTime 100)) ∧
      (100 : Time).toNat ≤ (evaluating (waits (some .a) (.atTime 100))).time.toNat) ∧
    (triggering (waits (some .a) (.event 7 1))).tick.triggers = (0, 90) :: [] ∧
    (triggering (waits (some .a) (.event 7 1))).job? 0 = some (waits (some .a) (.event 7 1)) :=
  ⟨⟨evaluates _, by decide⟩, rfl, rfl⟩

/-- LATE at more than one tick after the AT time (R57). -/
theorem test_atTrigger_late :
    gives (.atTrigger 1) (evaluating (waits (some .a) (.atTime 99)))
      (fun t => (t.job? 0).any (fun j => j.state == .ready && !j.run.late) && t.portA.ready == [0]) ∧
    gives (.atTrigger 1) (evaluating (waits (some .a) (.atTime 98)))
      (fun t => (t.job? 0).any (fun j => j.run.late)) := by decide +kernel

theorem test_meets_EveryMatchTriggersOrIsMissed :
    let j := waits (some .a) (.every 64 36 0)
    (evaluating j).Evaluates 1 0 [] j ∧
    (evaluating j).time.toNat % (64 : BitVec 32).toNat = (36 : BitVec 32).toNat ∧
    j.state = .pending ∧ (∀ d, j.deadline = some d → (evaluating j).time.toNat ≤ d.toNat) ∧
    1 ≤ (evaluating j).reports.room :=
  ⟨evaluates _, by decide, rfl, nofun, by decide⟩

theorem test_everyMatch_missed :
    gives (.everyMatch 1) (evaluating { waits (some .a) (.every 64 36 0) with
      state := .active, missed := 255 }) (fun t => (t.job? 0).any (fun j => j.missed == 255)) ∧
    gives (.everyMatch 1) (evaluating { waits (some .a) (.every 64 36 0) with
      state := .ready, missed := 0 }) (fun t => (t.job? 0).any (fun j => j.missed == 1)) := by
  decide +kernel

theorem test_meets_MarkersCompleteAtTheirTrigger :
    (let j := waits none (.atTime 100);
      (evaluating j).Evaluates 1 0 [] j ∧ j.port = none ∧ j.readTotal ≤ 48 ∧ j.standing = true) ∧
    (let j := waits none (.every 64 36 1);
      (evaluating j).Evaluates 1 0 [] j ∧
      (evaluating j).time.toNat % (64 : BitVec 32).toNat = (36 : BitVec 32).toNat ∧
      1 ≤ (evaluating j).reports.room ∧ ({ j with runsDone := 1 } : Job).ending = false ∧
      min (1 + 1) 65535 ≠ (1 : BitVec 16).toNat) :=
  ⟨⟨evaluates _, rfl, by decide, rfl⟩, evaluates _, by decide, by decide, rfl, by decide⟩

theorem test_meets_MarkersCompleteAtTheirTrigger_event :
    let j := waits none (.event 7 1)
    (triggering j).tick.evals = [] ∧ (triggering j).tick.edges = [] ∧
    (triggering j).tick.triggers = (0, 90) :: [] ∧ (triggering j).job? 0 = some j ∧
    j.state = .pending ∧ j.port = none ∧ j.standing = true ∧ j.runRes = false ∧
    j.replyHeld = false := by decide

/-- An EVENT marker's times are the edge time; the last run of a recurring marker ends it. -/
theorem test_marker_ends :
    gives (.eventTrigger 1) (triggering (waits none (.event 7 1))) (fun t =>
      t.freeSlots == 32 && t.reports.reserved == 0 && t.reports.queued.any (fun r => match r with
        | .job r => r.last && r.triggerTime == 90 && r.startTime == 90 && r.endTime == 90
        | _ => false)) ∧
    gives (.everyMatch 1) (evaluating (waits none (.every 64 36 1))) (fun t =>
      t.freeSlots == 32 && t.reports.reserved == 0 && t.reports.queued.any (fun r => match r with
        | .job r => r.last && r.runNumber == 1
        | _ => false)) ∧
    gives (.everyMatch 1) (evaluating (waits none (.every 64 36 2))) (fun t =>
      (t.job? 0).any (fun j => j.state == .pending && j.runsDone == 1) && t.reports.reserved == 1) := by
  decide +kernel

theorem test_meets_DeadlineExpiryEndsTheJob :
    let j : Job := { waits (some .a) .now with deadline := some 99 }
    (evaluating j).Evaluates 1 0 [] j ∧ j.state = .pending ∧
    (99 : Time).toNat < (evaluating j).time.toNat ∧ j.replyHeld = false ∧ j.standing = true :=
  ⟨evaluates _, rfl, by decide, rfl, rfl⟩

theorem test_deadlineExpiry_report : gives (.deadlineExpiry 1)
    (evaluating { waits (some .a) .now with deadline := some 99 })
    (fun t => t.slots == List.replicate 32 none && t.reports.reserved == 0
      && t.reports.queued.any (fun r => match r with
        | .job r => r.outcome == .expired && r.last && r.endTime == 100
        | _ => false)) = true := by decide +kernel

theorem test_meets_ConfigLineReplacesTheSettings (p : List Byte) :
    let s := ask .configLine p (edgeOn 0 .both .last .low 0)
    s.Quiet ∧ s.tick.edges = [0] ∧ s.finishEventUnit.MayCarryOut .configLine (req .configLine p) ∧
    (ask .configLine p State.reset).finishEventUnit.MayCarryOut .configLine (req .configLine p) := by
  refine ⟨⟨rfl, rfl, rfl⟩, rfl, ⟨may_afterEdge _ _, rfl⟩, ?_⟩
  rw [State.finishEventUnit_of_none rfl]
  exact ask_may_reset _ _

theorem test_configLine_bounds :
    gives .configLine (ask .configLine [8, 4, 2, 16, 2] State.reset)
      (fun t => t.link.tx.map Reply.payload == [[0x11, 0, 0]]) ∧
    gives .configLine (ask .configLine [7, 3, 1, 15, 1] State.reset)
      (fun t => t.link.tx.map Reply.payload == [[0]] && (t.line 7).config.edge == .both) := by
  decide +kernel

theorem test_meets_GetCaptureReadsTheRecords (m : Byte) :
    let s := ask .getCapture [m] (edgeOn 0 .both .last .low 0)
    s.Quiet ∧ s.finishEventUnit.MayCarryOut .getCapture (req .getCapture [m]) :=
  ⟨⟨rfl, rfl, rfl⟩, may_afterEdge _ _, rfl⟩

theorem test_meets_ClearCaptureMatchesTheCount (p : List Byte) :
    (ask .clearCapture p State.reset).MayCarryOut .clearCapture (req .clearCapture p) ∧
    (ask .clearCapture p State.reset).lines.length = 8 ∧
    (0 : Byte).toNat = ((ask .clearCapture p State.reset).line 7).capture.count ∧
    (1 : Byte).toNat ≠ ((ask .clearCapture p State.reset).line 7).capture.count :=
  ⟨ask_may_reset _ _, rfl, rfl, by show 1 ≠ 0; decide⟩

theorem test_meets_DetectedEdgeMovesLineRecordAndCountdowns :
    let s := edgeOn 7 .both .last .low 0
    7 < s.lines.length ∧ s.tick.evals = [] ∧ s.tick.edges = 7 :: [] ∧
    (s.tick.asks ++ 7 :: []).Pairwise (· < ·) := by decide

/-- Two edges at one increment and a trigger: the lines ask in line order after the trigger (R75). -/
theorem test_edges_askInLineOrder :
    let line : Line := (edgeOn 0 .both .last .low 0).line 0
    let s : State := { (withJob { waits (some .a) (.event 2 1) with countdown := 1 }) with
      lines := [line, Line.reset, line] ++ List.replicate 5 Line.reset
      tick := { TickWork.none with edges := [0, 2] } }
    let e := after (.edgeDetected 2) (after (.edgeDetected 0) s)
    e.reports.queued = [] ∧ e.tick.asks = [0, 2] ∧ e.tick.triggers = [(0, 96)] ∧
    (after (.eventTrigger 1) e).reports.queued
      = [.event 0 .rising 1 96 100, .event 2 .rising 1 96 100] ∧
    (after (.eventTrigger 1) e).tick = TickWork.none := by decide +kernel

/-- A state for each clause of the evaluation and of the event unit's act: a freed job, a job past its
deadline, one at its AT time, one at a match, one that stands; an edge, a trigger, a trigger whose job has
gone, nothing left. -/
theorem test_meets_TheEvaluationIsTakenAsAWhole_clauses :
    let at' (slot : Nat) (now : Time) : State :=
      { threeJobs with time := now, tick := { TickWork.none with evals := [slot] } }
    let late := { waits (some .a) (.event 0 1) with countdown := 1, deadline := some 5 }
    let atNine := { waits (some .a) (.atTime 9) with tag := 2, admission := 1 }
    let every := { waits (some .a) (.every 64 0 0) with tag := 3, admission := 2 }
    ((at' 9 5).tick.evals = 9 :: [] ∧ (at' 9 5).job? 9 = none) ∧
    ((at' 2 6).tick.evals = 2 :: [] ∧ (at' 2 6).job? 2 = some late ∧ late.state = .pending ∧
      late.deadline = some 5 ∧ (5 : Time).toNat < (at' 2 6).time.toNat) ∧
    ((at' 2 5).job? 2 = some late ∧ ¬(5 : Time).toNat < (at' 2 5).time.toNat) ∧
    ((at' 1 9).job? 1 = some atNine ∧ atNine.state = .pending ∧ atNine.deadline = none ∧
      atNine.trigger = .atTime 9 ∧ (9 : Time).toNat ≤ (at' 1 9).time.toNat) ∧
    ((at' 0 64).job? 0 = some every ∧ every.state = .pending ∧ every.deadline = none ∧
      every.trigger = .every 64 0 0 ∧
      (at' 0 64).time.toNat % (64 : BitVec 32).toNat = (0 : BitVec 32).toNat) ∧
    ((edgeOn 7 .both .last .low 0).tick.evals = [] ∧
      (edgeOn 7 .both .last .low 0).tick.edges = 7 :: []) ∧
    ((triggering job).tick.evals = [] ∧ (triggering job).tick.edges = [] ∧
      (triggering job).tick.triggers = (0, 90) :: [] ∧ (triggering job).job? 0 = some job) ∧
    (State.job? { triggering job with slots := [] } 0 = none) ∧
    (State.reset.tick.edges = [] ∧ State.reset.tick.triggers = []) := by decide +kernel

/-- Three jobs due at one increment, the oldest first: what the whole evaluation carries out, and the
commands one by one (R56). -/
theorem test_evaluation_jobByJob :
    let s : State := { threeJobs with
      time := 64, tick := { TickWork.none with evals := [2, 1, 0] }
      reports := { ReportQueue.reset with reserved := 3 } }
    s.finishTimeBase
      = after (.everyMatch 3) (after (.atTrigger 2) (after (.deadlineExpiry 1) s)) ∧
    s.finishTimeBase.freeSlots = 30 ∧ s.finishTimeBase.portA.ready = [1, 0] := by decide +kernel

/-- The edge that brings a countdown to 0 puts the job, with the run's start, among those to be
triggered; one passed over does not, and asks for no notice (R71, R76). -/
theorem test_edge_countdown :
    let s (e : EdgeSetting) : State := { edgeOn 0 e .last .low 0 with
      slots := some { waits (some .a) (.event 0 1) with countdown := 1 } :: List.replicate 31 none }
    gives (.edgeDetected 0) (s .rising) (fun t => t.tick.triggers == [(0, 96)] && t.tick.asks == [0]
      && (t.job? 0).any (fun j => j.countdown == 0)) ∧
    gives (.edgeDetected 0) (s .falling) (fun t => t.tick == TickWork.none
      && t.reports == (s .falling).reports && (t.line 0).notice == .none) := by decide +kernel

theorem test_edge_firstMode : gives (.edgeDetected 0) (edgeOn 0 .both .first .low 255) (fun t =>
    (t.line 0).capture == { held := true, time := 5, polarity := .rising, count := 255 }
      && (t.line 0).notice == .queued && (t.line 0).sampler.settled == .high) = true := by
  decide +kernel

theorem test_edge_passedOver : gives (.edgeDetected 0) (edgeOn 0 .falling .last .low 0) (fun t =>
    (t.line 0).capture.count == 0 && (t.line 0).sampler.settled == .high) = true := by
  decide +kernel

theorem test_eventTrigger_edgeTime : gives (.eventTrigger 1)
    (triggering (waits (some .a) (.event 7 1))) (fun t => (t.job? 0).any (fun j =>
      j.run.triggerTime == 90 && j.state == .ready) && t.portA.ready == [0]) = true := by
  decide +kernel

/-! ## Hypotheses met: reports -/

theorem test_meets_NoticesAreQueuedOrOwedAndDrainedInOrder :
    7 < State.reset.lines.length := by decide

/-- One place of room lets in the first of two owed notices, with its present content (R154). -/
theorem test_drain_one :
    let s : State := { State.reset with
      time := 9
      portA := { State.reset.portA with notice := .owed }
      lines := State.reset.lines.set 3 { Line.reset with notice := .owed }
      reports := { ReportQueue.reset with
        reserved := 47, owed := [.line 3, .port .a], attnMode := .pulse, pulse := some 5 } }
    s.drain.reports = { s.reports with
      queued := [.event 3 .rising 0 0 9], owed := [.port .a], pulse := some 0 } ∧
    (s.drain.line 3).notice = .queued ∧ s.drain.portA.notice = .owed := by decide +kernel

/-- ATTN in both modes (R158), and the pulse that a queuing of an enabled report starts (R159). -/
theorem test_attn :
    let q : ReportQueue := { ReportQueue.reset with
      enables := { job := true, event := false, port := true } }
    let pulsing : ReportQueue := { q with attnMode := .pulse }
    let e : Report := .event 0 .rising 1 5 6
    let p : Report := .port .a .idle 6
    (q.push e).attn = false ∧ (q.push p).attn = true ∧ (q.push p).pulse = none ∧
    (pulsing.push e).attn = false ∧ (pulsing.push p).pulse = some 0 ∧
    (pulsing.push p).attn = true ∧ (pulsing.push p).endPulse.attn = false := by decide

/-- A notice is queued again at its delivery where the source has moved on since, and not otherwise
(R85, R121, R156). -/
theorem test_readReports_movedOn :
    let s (count : Nat) : State := { State.reset.setLine 0 { Line.reset with
        config := { edge := .both, mode := .last, filter := 0, noticeEn := true }
        capture := { held := true, time := 5, polarity := .rising, count := count }
        notice := .queued } with
      reports := { ReportQueue.reset with queued := [.event 0 .rising 1 5 6] } }
    gives .readReports (ask .readReports [1] (s 2)) (fun t =>
      t.reports.queued == [.event 0 .rising 2 5 0] && (t.line 0).notice == .queued) ∧
    gives .readReports (ask .readReports [1] (s 1)) (fun t =>
      t.reports.queued == [] && (t.line 0).notice == .none) := by decide +kernel

theorem test_meets_ReadReportsRemovesTheOldest (m : Byte) :
    (ask .readReports [m] State.reset).MayCarryOut .readReports (req .readReports [m]) :=
  ask_may_reset _ _

/-- The records of R177: the sizes of section 10.6, and a mark not taken. -/
theorem test_records :
    let j : JobReport := { (withJob job).endReport job .portClosed with
      late := true, marks := [0x010203040506], received := 2, data := [0xAA, 0xBB] }
    (Report.job j).bytes.length = 47 ∧
    (Report.job j).bytes.take 11 = [1, 0, 1, 10, 3, 0, 0, 0, 0, 0, 0] ∧
    (Report.job j).bytes.drop 29
      = [1, 1, 2, 3, 4, 5, 6, 0, 0, 0, 0, 0, 0, 0, 2, 2, 0xAA, 0xBB] ∧
    (Report.event 7 .falling 3 0x102 0x304).bytes
      = [2, 7, 1, 3, 0, 0, 0, 0, 1, 2, 0, 0, 0, 0, 3, 4] ∧
    (Report.port .b .stuck 5).bytes = [3, 2, 6, 0, 0, 0, 0, 0, 5] := by decide +kernel

theorem test_readReports_bounds :
    gives .readReports (ask .readReports [4] State.reset)
      (fun t => t.link.tx.map Reply.payload == [[0x11, 0, 0]]) ∧
    gives .readReports (ask .readReports [3] State.reset)
      (fun t => t.link.tx.map Reply.payload == [[0, 0, 0]]) := by decide +kernel

/-! ## Hypotheses met: the job table -/

/-- A SUBMIT payload: tag, port, trigger kind and its ten bytes, flags, retries, no deadline, the steps
of a list, write data. -/
def submission (tag : Nat) (port trigger : Byte) (args : List Byte) (flags retries : Byte)
    (steps data : List Byte) : List Byte :=
  bytesBE 2 tag ++ [port, trigger] ++ args ++ [flags, retries] ++ List.replicate 6 0xFF
    ++ [b1 (steps.length / 4)] ++ steps ++ data

/-- ADDRESS 48h W, WRITE 1. -/
def writeOne : List Byte := [1, 0x48, 0, 0, 3, 0, 0, 1]

/-- The ten trigger bytes of a NOW job. -/
def noArgs : List Byte := List.replicate 10 0

/-- A NOW job of port A. -/
def nowJob : List Byte := submission 1 1 0 noArgs 0 1 writeOne [0xAB]

/-- A NOW marker. -/
def nowMarker : List Byte := submission 2 0 0 noArgs 0 0 [] []

/-- An AT job. -/
def atJob : List Byte := submission 3 1 1 [0, 0, 0, 0, 0, 9, 0, 0, 0, 0] 0 0 writeOne [0xAB]

/-- Port A in service. -/
def ready : State := portA .sole .idle State.reset

/-- A state in which a payload has been asked to be submitted. -/
def submit (p : List Byte) (s : State) : State := ask .submit p s

/-- What checks 1 to 4 find of a payload. -/
def parsed (p : List Byte) : Option Submission :=
  match parseSubmit p with
  | .ok x => some x
  | .error _ => none

theorem parsed_some {p : List Byte} {x : Submission} (h : parsed p = some x) :
    parseSubmit p = .ok x := by
  unfold parsed at h
  split at h
  · cases h
    assumption
  · cases h

/-- The submission a payload spells, where it passes checks 1 to 4. -/
def spelled (p : List Byte) : Submission := (parsed p).getD
  { tag := 0, port := none, trigger := .now, unbreakable := false, holdReply := false, retries := 0
    deadline := none, steps := [], writeLen := 0, readTotal := 0, data := [] }

theorem parse_spelled {p : List Byte} (h : (parsed p).isSome = true) :
    parseSubmit p = .ok (spelled p) := by
  apply parsed_some
  unfold spelled
  cases hp : parsed p with
  | none => rw [hp] at h; cases h
  | some x => rfl

theorem test_meets_SubmitChecksItsPayloadInOrder (p : List Byte) (h : 23 ≤ p.length) :
    (submit p ready).MayCarryOut .submit (req .submit p) ∧ 23 ≤ (req .submit p).payload.length :=
  ⟨ask_may _ _ (quiet rfl) rfl rfl, h⟩

/-- What a SUBMIT is answered. -/
def answers (p : List Byte) (s : State) (payload : List Byte) : Bool :=
  gives .submit (submit p s) (fun t => t.link.tx.map Reply.payload == [payload])

theorem test_submit_checks :
    answers (submission 1 1 0 noArgs 0 1 writeOne []) ready [0x10] ∧
    answers (submission 0 3 0 noArgs 0 1 writeOne [0xAB]) ready [0x11, 0, 0] ∧
    answers (submission 1 3 0 noArgs 0 1 writeOne [0xAB]) ready [0x11, 0, 2] ∧
    answers (submission 1 2 4 noArgs 0 1 writeOne [0xAB]) ready [0x11, 0, 3] ∧
    answers (submission 1 1 2 [0, 0, 0, 63, 0, 0, 0, 0, 0, 0] 0 1 writeOne [0xAB]) ready
      [0x11, 0, 4] ∧
    answers (submission 1 1 0 noArgs 4 8 writeOne [0xAB]) ready [0x11, 0, 14] ∧
    answers (submission 1 1 0 noArgs 3 8 writeOne [0xAB]) ready [0x11, 0, 15] := by
  decide +kernel

/-- The offsets of the trigger arguments (R8, section 10.3). -/
theorem test_submit_triggerArgs :
    answers (submission 1 1 0 (noArgs.set 9 1) 0 1 writeOne [0xAB]) ready [0x11, 0, 13] ∧
    answers (submission 1 1 1 (noArgs.set 6 1) 0 1 writeOne [0xAB]) ready [0x11, 0, 10] ∧
    answers (submission 1 1 2 [0, 0, 0, 64, 0, 0, 0, 64, 0, 0] 0 1 writeOne [0xAB]) ready
      [0x11, 0, 8] ∧
    answers (submission 1 1 3 [8, 0, 0, 0, 0, 0, 0, 0, 0, 0] 0 1 writeOne [0xAB]) ready
      [0x11, 0, 4] ∧
    answers (submission 1 1 3 [7, 0, 0, 0, 0, 0, 0, 0, 0, 0] 0 1 writeOne [0xAB]) ready
      [0x11, 0, 5] ∧
    answers (submission 1 1 3 [7, 1, 1, 0, 0, 0, 0, 0, 0, 0] 0 1 writeOne [0xAB]) ready
      [0x11, 0, 6] := by decide +kernel

theorem test_submit_stepChecks :
    answers (submission 1 1 0 noArgs 0 7 [1, 0x78, 0, 0, 3, 0, 0, 1] [0xAB]) ready [0x12, 0, 3] ∧
    answers (submission 1 1 0 noArgs 0 7 [] []) ready [0x12, 0, 7] ∧
    answers (submission 1 0 0 noArgs 0 7 writeOne [0xAB]) ready [0x12, 0, 7] ∧
    answers (submission 1 1 1 noArgs 2 7 writeOne [0xAB]) ready [0x11, 0, 14] ∧
    answers (submission 1 1 2 [0, 0, 0, 64, 0, 0, 0, 63, 0, 0] 0 7 [1, 0x48, 0, 1, 4, 0, 0, 49] [])
      ready [0x11, 0, 3] := by decide +kernel

theorem test_meets_AcceptedStepListsAreWellFormed :
    (∀ x ∈ rawSteps nowJob 2, x.arg2 < 65536) ∧
    (match checkSteps (rawSteps nowJob 2) with
      | .ok (steps, w) => steps == job.steps && w.writeSum == 1
      | .error _ => false) = true ∧ (parsed nowJob).isSome = true := by decide +kernel

/-- Each refusal of the step check, at the first failing index (R37 to R40): COUNT at 16; ADDRESS before
RANGE; a step 0 that opens nothing; the third MARK; the sums; a transfer for reading left unread. -/
theorem test_steps_refused :
    let refused (raws : List RawStep) (index : Nat) (reason : Reason) : Bool :=
      match checkSteps raws with
      | .error e => e == (index, reason)
      | .ok _ => false
    let toWrite : RawStep := ⟨1, 0x48, 0⟩
    let toRead : RawStep := ⟨1, 0x48, 1⟩
    let mark : RawStep := ⟨7, 0, 0⟩
    refused (List.replicate 17 toWrite) 16 .count ∧ refused [⟨1, 0x78, 2⟩] 0 .address ∧
    refused [⟨1, 0x77, 2⟩] 0 .range ∧ refused [⟨2, 7, 0⟩] 0 .address ∧
    refused [⟨2, 8, 0x100⟩] 0 .range ∧ refused [mark] 0 .order ∧ refused [⟨7, 1, 0⟩] 0 .range ∧
    refused [toWrite, mark, mark, mark] 3 .marks ∧
    refused [toWrite, ⟨3, 0, 192⟩, ⟨3, 0, 1⟩] 2 .lengthSum ∧
    refused [toRead, ⟨4, 0, 256⟩, ⟨4, 0, 1⟩] 2 .lengthSum ∧
    refused [toWrite, toRead, mark] 2 .order ∧ refused [toRead, ⟨5, 0, 0⟩] 1 .order ∧
    refused [toWrite, ⟨8, 0, 0⟩] 1 .range := by decide +kernel

/-- Lists that fail no test are accepted, the empty one and one of sixteen steps among them. -/
theorem test_steps_accepted :
    let accepted (raws : List RawStep) : Bool := match checkSteps raws with
      | .error _ => false
      | .ok (steps, _) => steps.length == raws.length
    accepted [] ∧ accepted (List.replicate 16 ⟨1, 0x77, 0⟩) ∧
    accepted [⟨2, 8, 0xFFFF⟩, ⟨3, 0, 192⟩, ⟨7, 0, 0⟩, ⟨1, 8, 1⟩, ⟨6, 0, 0xFFFF⟩, ⟨4, 0, 256⟩, ⟨6, 1, 1⟩] :=
  by decide +kernel

/-- The place test at its three refusals, and the greatest PAUSE (R39). -/
theorem test_steps_place :
    answers (submission 1 1 0 noArgs 0 7 [1, 0x48, 0, 1, 3, 0, 0, 1] [0xAB]) ready [0x12, 1, 2] ∧
    answers (submission 1 1 0 noArgs 0 7 [1, 0x48, 0, 1, 5, 0, 0, 0] []) ready [0x12, 1, 1] ∧
    answers (submission 1 1 0 noArgs 0 7 [1, 0x48, 0, 1] []) ready [0x12, 0, 1] ∧
    gives .submit (submit (submission 1 1 0 noArgs 0 7 [1, 0x48, 0, 0, 6, 0, 0xFF, 0xFF] []) ready)
      (fun t => (t.job? 0).any (fun j => j.steps == [.address 0x48 .w, .pause .hold 65535])) := by
  decide +kernel

/-- Every slot taken, with no room and no free block left. -/
def full : State :=
  { ready with
    slots := List.replicate 32 (some { job with tag := 9, blocks := List.range 64 })
    reports := { ReportQueue.reset with reserved := 48 } }

theorem test_meets_SubmitIsRefusedForWantOfResources :
    (submit nowJob full).MayCarryOut .submit (req .submit nowJob) ∧
    parseSubmit (req .submit nowJob).payload = .ok (spelled nowJob) :=
  ⟨ask_may _ _ (quiet rfl) rfl rfl, parse_spelled (by decide +kernel)⟩

theorem test_submit_resources :
    answers (submission 9 1 0 noArgs 0 1 writeOne [0xAB]) full [0x20] ∧
    answers nowJob State.reset [0x25] ∧ answers nowJob full [0x21] ∧
    answers nowJob { full with slots := none :: full.slots.drop 1 } [0x22] ∧
    answers nowJob { full with slots := List.replicate 32 none } [0x23] ∧
    answers (submission 1 1 0 noArgs 0 1 writeOne [0xAB] |>.set 16 0 |>.set 17 0 |>.set 18 0
      |>.set 19 0 |>.set 20 0 |>.set 21 0) ready [0x24] := by decide +kernel

theorem test_meets_SubmitAcceptedTakesItsResources :
    ((submit nowJob ready).MayCarryOut .submit (req .submit nowJob) ∧
      parseSubmit (req .submit nowJob).payload = .ok (spelled nowJob) ∧
      (submit nowJob ready).admissionRefusal (spelled nowJob) = none ∧
      (spelled nowJob).trigger = .now ∧ (spelled nowJob).port = some .a) ∧
    (parseSubmit (req .submit nowMarker).payload = .ok (spelled nowMarker) ∧
      (submit nowMarker ready).admissionRefusal (spelled nowMarker) = none ∧
      (spelled nowMarker).port = none) ∧
    (parseSubmit (req .submit atJob).payload = .ok (spelled atJob) ∧
      (submit atJob ready).admissionRefusal (spelled atJob) = none ∧
      (spelled atJob).trigger ≠ .now) :=
  ⟨⟨ask_may _ _ (quiet rfl) rfl rfl, parse_spelled (by decide +kernel), by decide +kernel,
    by decide +kernel, by decide +kernel⟩,
   ⟨parse_spelled (by decide +kernel), by decide +kernel, by decide +kernel⟩,
   parse_spelled (by decide +kernel), by decide +kernel, by decide +kernel⟩

theorem test_submit_accepted :
    gives .submit (submit nowJob ready) (fun t => t.portA.ready == [0] && t.counter == 1
      && t.reports.reserved == 1 && Memory.read t.pool 0 == 0xAB
      && t.job? 0 == some { job with run := { RunRecord.cleared with triggerTime := 0 } }) ∧
    gives .submit (submit nowMarker ready) (fun t => t.freeSlots == 32 && t.reports.reserved == 0
      && t.reports.queued.length == 1 && t.counter == 1) ∧
    gives .submit (submit (nowJob.set 14 2) ready) (fun t => t.link.slot == .held 1 7 0
      && t.link.tx == [] && (t.job? 0).any Job.replyHeld) := by decide +kernel

theorem test_meets_SubmitStoresTheWriteData :
    (submit nowJob ready).PoolLaw ∧ 0 < (spelled nowJob).data.length := by
  constructor
  · rfl
  · decide +kernel

/-- A CANCEL of tag 1 or 2 is in hand. -/
def cancelling (tag : Byte) (s : State) : State := ask .cancel [0, tag] s

theorem tableLaw_job (st : JobState) (u : Bool) :
    (withJob { job with state := st, unbreakable := u }).TableLaw :=
  tableLaw_withJob (show (1 : Tag) ≠ 0 by decide) rfl (show (1 + 0 + 31) / 32 = 1 by decide)

theorem test_meets_CancelAnswersByState (st : JobState) (u : Bool) :
    let s := cancelling 1 (withJob { job with state := st, unbreakable := u })
    s.MayTake .cancel (req .cancel [0, 1]) ∧ s.TableLaw ∧ s.link.slot = .empty ∧
    s.job? 0 = some { job with state := st, unbreakable := u } ∧ tagAt [0, 1] = 1 ∧
    (cancelling 2 (withJob job)).MayTake .cancel (req .cancel [0, 2]) :=
  ⟨(ask_may_job _ _ _).1, tableLaw_job st u, rfl, rfl, rfl, (ask_may_job _ _ _).1⟩

theorem test_cancel_waiting : gives (.cancel false) (cancelling 1 (withJob job)) (fun t =>
    t.freeSlots == 32 && t.reports.reserved == 0 && t.reports.queued == []
      && t.link.tx.map Reply.payload == [[1, 0, 1]]) = true := by decide +kernel

theorem test_cancel_held : gives (.cancel false)
    (cancelling 1 (holding 1 (withJob { job with replyHeld := true, holdReply := true })))
    (fun t => t.freeSlots == 32 && t.link.slot == .empty
      && t.link.tx.map Reply.lseq == [7, 5] && t.link.tx.map Reply.kind == [0xC1, 0xC0]) = true := by
  decide +kernel

/-- A job in a PAUSE HOLD. -/
def paused : Job := active [.address 0x48 .w, .pause .hold 9] 1

theorem test_meets_CancelStopsABreakableRun (ph : Phase) (held : Bool) :
    let s := cancelling 1 (running paused ph held)
    s.MayTake .cancel (req .cancel [0, 1]) ∧ s.TableLaw ∧ s.job? 0 = some paused ∧
    paused.unbreakable = false ∧ paused.stopping = false ∧ (s.port .a).state = .running (run ph held) ∧
    (run ph held).slot = 0 ∧ (run ph held).phase = ph ∧ (run ph held).held = held :=
  ⟨⟨quiet rfl, rfl, rfl, by show 0 < 4; decide, fun _ => nofun⟩,
   tableLaw_withJob (j := paused) (by decide) rfl rfl, rfl, rfl, rfl, rfl, rfl, rfl, rfl⟩

theorem test_cancel_pauseHold : gives (.cancel false) (cancelling 1 (running paused .pauseHold true))
    (fun t => t.portA.state == .running (run (.stop .stopping) true)
      && (t.job? 0).any (fun j => j.stopping && j.run.failStep == 1)) = true := by decide +kernel

theorem test_cancel_pauseFree :
    gives (.cancel false) (cancelling 1 (running paused .pauseFree false)) (fun t =>
      t.portA.state == .idle && t.freeSlots == 32 && t.reports.queued.any (fun r => match r with
        | .job r => r.outcome == .cancelled && r.failStep == 1
        | _ => false)) = true := by decide +kernel

theorem test_meets_JobStatusAndFetchReadTheJob (tag : Byte) (l : List Byte) :
    ((ask .jobStatus [0, tag] (withJob doneJob)).MayTake .jobStatus (req .jobStatus [0, tag]) ∧
      (ask .jobStatus [0, tag] (withJob doneJob)).TableLaw ∧
      (ask .jobStatus [0, tag] (withJob doneJob)).job? 0 = some doneJob) ∧
    (ask .fetch l (withJob doneJob)).MayCarryOut .fetch (req .fetch l) ∧
    (ask .fetch l (withJob doneJob)).TableLaw ∧
    fieldAt [0, 1, 0, 3, 0, 1] 2 2 + fieldAt [0, 1, 0, 3, 0, 1] 4 2 ≤ doneJob.run.received ∧
    doneJob.run.received < fieldAt [0, 1, 0, 4, 0, 1] 2 2 + fieldAt [0, 1, 0, 4, 0, 1] 4 2 :=
  ⟨⟨(ask_may_job _ _ _).1, table_doneJob, rfl⟩, ask_may_job _ _ _, table_doneJob,
   by decide, by decide⟩

theorem test_fetch_bounds :
    gives .fetch (ask .fetch [0, 1, 0, 3, 0, 1] (withJob doneJob))
      (fun t => t.link.tx.map Reply.payload == [[0, 0, 1, 0, 3, 0, 1, 0]]) ∧
    gives .fetch (ask .fetch [0, 1, 0, 4, 0, 1] (withJob doneJob))
      (fun t => t.link.tx.map Reply.payload == [[0x11, 0, 2]]) ∧
    gives .fetch (ask .fetch [0, 2, 0, 0, 1, 1] (withJob doneJob))
      (fun t => t.link.tx.map Reply.payload == [[0x11, 0, 4]]) ∧
    gives .fetch (ask .fetch [0, 2, 0, 0, 1, 0] (withJob doneJob))
      (fun t => t.link.tx.map Reply.payload == [[0x30]]) ∧
    gives .fetch (ask .fetch [0, 1, 0, 0, 1, 0] (withJob job))
      (fun t => t.link.tx.map Reply.payload == [[0x31]]) := by decide +kernel

theorem test_jobStatus_done : gives .jobStatus (ask .jobStatus [0, 1] (withJob doneJob)) (fun t =>
    t.link.tx.map Reply.payload == [[0, 0, 1, 3, 0, 0, 0, 0, 0, 0, 0, 0, 0, 0, 0, 0, 4]]) = true := by
  decide +kernel

theorem test_meets_ReleaseFreesADoneJob (tag : Byte) :
    let s := ask .release [0, tag] (withJob doneJob)
    s.MayCarryOut .release (req .release [0, tag]) ∧ s.TableLaw ∧ s.DispatchLaw ∧
    s.job? 0 = some doneJob ∧ doneJob.state = .done :=
  ⟨ask_may_job _ _ _, table_doneJob, dispatch_doneJob, rfl, rfl⟩

theorem test_release_frees : gives .release (ask .release [0, 1] (withJob doneJob)) (fun t =>
    t.freeSlots == 32 && t.freeBlocks.length == 64) = true := by decide +kernel

/-- The job, its reply held, in a run. -/
def heldRun (total : Nat) : State :=
  holding 1 (running { active job.steps 1 with
    replyHeld := true, holdReply := true, readTotal := total } (.stop .implied) true)

theorem test_meets_AHeldJobEndsInItsHeldReply :
    (heldRun 48).job? 0 = some { active job.steps 1 with
      replyHeld := true, holdReply := true, readTotal := 48 } ∧
    (heldRun 48).link.slot = .held 1 5 0 ∧ (heldRun 48).link.tx.length < 4 ∧
    (heldRun 48).link.resetPending = false := ⟨rfl, rfl, by decide, rfl⟩

theorem test_heldRun_ends :
    gives (.stop .a) (heldRun 48) (fun t => t.freeSlots == 32 && t.reports.queued == []
      && t.reports.reserved == 0 && t.link.tx.map Reply.lseq == [5] && t.link.slot == .empty) ∧
    gives (.stop .a) (heldRun 49) (fun t => t.freeSlots == 31 && t.reports.reserved == 0
      && (t.job? 0).any (fun j => j.state == .done && !j.replyHeld && !j.standing)) := by
  decide +kernel

/-- The READY job whose reply is held, past its deadline. -/
def heldLate : Job := { job with replyHeld := true, holdReply := true, deadline := some 99 }

theorem test_meets_AHeldJobEndsInItsHeldReply_expiry :
    let s := holding 1 (evaluating heldLate)
    s.job? 0 = some heldLate ∧ heldLate.replyHeld = true ∧ s.link.slot = .held heldLate.tag 5 0 ∧
    s.Evaluates 1 0 [] heldLate ∧ heldLate.state = .ready ∧ heldLate.deadline = some 99 ∧
    (99 : Time).toNat < s.time.toNat :=
  ⟨rfl, rfl, rfl, ⟨rfl, rfl, rfl, rfl, rfl⟩, rfl, rfl, by decide⟩

theorem test_heldLate_expires : gives (.deadlineExpiry 1) (holding 1 (evaluating heldLate)) (fun t =>
    t.freeSlots == 32 && t.reports.queued == [] && t.reports.reserved == 0 && t.link.slot == .empty
      && t.link.tx.map (fun r => (r.kind, r.lseq, r.payload.take 5))
        == [(0xC0, 5, [0, 1, 0, 1, 9])]) = true := by decide +kernel

/-- A recurring job in a run. -/
def recurring (runs : BitVec 16) : Job :=
  { active job.steps 1 with trigger := .every 64 0 runs, runRes := true, missed := 3 }

theorem test_meets_ARunEndReportsAndClosesTheJob :
    ((withJob job).job? 0 = some job ∧ job.port = some .a ∧ job.replyHeld = false ∧
      0 ∉ ((withJob job).port .a).ready ∧ job.recurring = false ∧ job.standing = true ∧
      job.runRes = false ∧ job.readTotal ≤ 48) ∧
    (∀ next ∈ [PortState.idle, .detached, .recovering .run .release],
      next = .idle ∨ next = .detached ∨ next = .recovering .run .release) ∧
    ((recurring 2).recurring = true ∧ (recurring 2).runRes = true ∧ (recurring 2).standing = true) :=
  by decide

theorem test_runEnd_recurring :
    gives (.stop .a) (running (recurring 2) (.stop .implied) true) (fun t =>
      (t.job? 0).any (fun j => j.state == .pending && j.runsDone == 1 && j.missed == 0 && !j.runRes
        && j.standing) && t.reports.reserved == 1 && t.reports.queued.any (fun r => match r with
        | .job r => !r.last && r.missed == 3 && r.runNumber == 1
        | _ => false)) ∧
    gives (.stop .a) (running (recurring 1) (.stop .implied) true) (fun t =>
      t.freeSlots == 32 && t.reports.reserved == 0 && t.reports.queued.any (fun r => match r with
        | .job r => r.last
        | _ => false)) := by decide +kernel

theorem test_runEnd_long : gives (.stop .a)
    (running { active job.steps 1 with readTotal := 49 } (.stop .implied) true) (fun t =>
      (t.job? 0).any (fun j => j.state == .done && j.runsDone == 1 && !j.standing)
        && t.reports.reserved == 0) = true := by decide +kernel

/-! ## Hypotheses met: the ports -/

/-- A CONFIG_PORT payload with every field at its least value, stretch limit 1. -/
def portPayload (port mode pres : Byte) : List Byte := [port, mode, 0, 0, 0, 1, pres, 0, 0, 1]

theorem test_meets_ConfigPortIsRefusedInOrder (p : List Byte) :
    (ask .configPort p State.reset).MayCarryOut .configPort (req .configPort p) ∧
    (ask .configPort p (running job .write true)).MayCarryOut .configPort (req .configPort p) ∧
    ((running job .write true).port .a).state = .running (run .write true) ∧
    ((edgeOn 7 .both .last .low 0).line 7).config.edge ≠ .off :=
  ⟨ask_may_reset _ _, ask_may _ _ (quiet rfl) rfl rfl, rfl, by decide⟩

/-- What a CONFIG_PORT is answered. -/
def configAnswers (p : List Byte) (s : State) (payload : List Byte) : Bool :=
  gives (.configPort high) (ask .configPort p s) (fun t => t.link.tx.map Reply.payload == [payload])

theorem test_configPort_checks :
    configAnswers [3, 3, 3, 4, 0, 0, 2, 0, 0, 2] State.reset [0x11, 0, 0] ∧
    configAnswers [2, 3, 3, 4, 0, 0, 2, 0, 0, 2] State.reset [0x11, 0, 1] ∧
    configAnswers [2, 2, 3, 4, 0, 0, 2, 0, 0, 2] State.reset [0x11, 0, 2] ∧
    configAnswers [2, 2, 2, 4, 0, 0, 2, 0, 0, 2] State.reset [0x11, 0, 3] ∧
    configAnswers [2, 2, 2, 3, 0, 0, 2, 0, 0, 2] State.reset [0x11, 0, 4] ∧
    configAnswers [2, 2, 2, 3, 0, 1, 2, 0, 0, 2] State.reset [0x11, 0, 6] ∧
    configAnswers [2, 2, 2, 3, 0, 1, 1, 0, 0, 2] State.reset [0x11, 0, 9] ∧
    configAnswers (portPayload 1 2 0) (running job .write true) [0x26] ∧
    configAnswers (portPayload 2 1 0)
      { edgeOn 7 .both .last .low 0 with tick := TickWork.none } [0x27] := by decide +kernel

/-- The settings `portPayload` gives. -/
def leastSettings (mode : PortMode) (pres : PresenceSetting) : PortSettings where
  mode         := mode
  speed        := .standard
  slowing      := .pct0
  stretchLimit := 1
  presence     := pres
  settleTime   := 0
  noticeEn     := true

theorem test_meets_ConfigPortMovesThePort (mode : PortMode) (pres : PresenceSetting) :
    let c := leastSettings mode pres
    let p := [portCode .b, c.mode.code, c.speed.code, c.slowing.code]
      ++ bytesBE 2 c.stretchLimit.toNat ++ [c.presence.code] ++ bytesBE 2 c.settleTime.toNat
      ++ [if c.noticeEn then 1 else 0]
    let s := ask .configPort p State.reset
    s.MayCarryOut .configPort (req .configPort p) ∧ c.stretchLimit ≠ 0 ∧
    (∀ r, (s.port .b).state ≠ .running r) ∧ (∀ o n, (s.port .b).state ≠ .recovering o n) ∧
    s.DriveLaw ∧ ((s.line 6).config.edge = .off ∧ (s.line 7).config.edge = .off) ∧
    (s.port .b).settings.mode = .off :=
  ⟨ask_may_reset _ _, by show (1 : BitVec 16) ≠ 0; decide, fun _ => nofun, fun _ _ => nofun,
   fun p _ _ => by cases p <;> rfl, ⟨rfl, rfl⟩, rfl⟩

/-- The same for port A in service, IDLE or STUCK. -/
theorem test_meets_ConfigPortMovesThePort_inService (p : List Byte) (n : Nat) (x : PortState)
    (hx : x = .idle ∨ x = .stuck n ∨ x = .settling n ∨ x = .detached) :
    let s := ask .configPort p (portA .sole x State.reset)
    s.MayCarryOut .configPort (req .configPort p) ∧ (∀ r, (s.port .a).state ≠ .running r) ∧
    (∀ o n, (s.port .a).state ≠ .recovering o n) ∧ s.DriveLaw ∧
    (s.port .a).settings.mode = .sole := by
  refine ⟨ask_may _ _ (quiet rfl) rfl rfl, fun r => ?_, fun o m => ?_, fun p _ _ => by cases p <;> rfl,
    rfl⟩
  · show x ≠ _
    rcases hx with h | h | h | h <;> rw [h] <;> nofun
  · show x ≠ _
    rcases hx with h | h | h | h <;> rw [h] <;> nofun

theorem test_configPort_opens :
    configAnswers (portPayload 2 1 0) State.reset [0, 3] ∧
    gives (.configPort { scl := false, sda := true }) (ask .configPort (portPayload 1 2 0) State.reset)
      (fun t => t.portA.state == .recovering .enable .release) ∧
    gives (.configPort high) (ask .configPort (portPayload 1 2 1) State.reset)
      (fun t => t.portA.state == .detached && t.reports.queued == [.port .a .detached 0]) := by
  decide +kernel

/-- The PENDING job of a port in service. -/
def inService : State := portA .sole .idle (withJob (waits (some .a) (.atTime 200)))

theorem portA_inService (p : PortId) : (inService.port p).ready = [] ∧
    ∀ r, (inService.port p).state ≠ .running r := by
  cases p <;> exact ⟨rfl, fun _ => nofun⟩

theorem job_inService {i : Nat} {j : Job} (h : inService.job? i = some j) :
    j = waits (some .a) (.atTime 200) := (job_of_withJob (j := waits (some .a) (.atTime 200)) h).2

theorem dispatchLaw_inService : inService.DispatchLaw := by
  refine ⟨fun p => by simp [(portA_inService p).1], fun p i => ?_, fun p r h => ?_,
    fun i j h ha => ?_, fun i j h => ?_⟩
  · simp only [(portA_inService p).1, List.not_mem_nil, false_iff]
    rintro ⟨j, hj, hs, -⟩
    rw [job_inService hj] at hs
    exact absurd hs (by decide)
  · exact absurd h ((portA_inService p).2 r)
  · rw [job_inService h] at ha
    exact absurd ha (by decide)
  · rw [job_inService h]
    exact ⟨by decide, by decide, by decide, by decide⟩

theorem heldLaw_inService : inService.HeldLaw := by
  refine ⟨fun i j h => ?_, fun tag lseq n h => ?_⟩
  · rw [job_inService h]
    refine ⟨⟨nofun, fun ⟨l, n, h⟩ => by cases h⟩, nofun⟩
  · cases h

theorem test_meets_ConfigPortOffClosesTheJobs (p : List Byte) :
    let s := ask .configPort p inService
    s.MayCarryOut .configPort (req .configPort p) ∧ s.DispatchLaw ∧ s.HeldLaw ∧
    (∀ r, (s.port .a).state ≠ .running r) ∧ (∀ o n, (s.port .a).state ≠ .recovering o n) ∧
    (s.port .a).settings.mode ≠ .off :=
  ⟨ask_may _ _ (quiet rfl) rfl rfl, dispatchLaw_inService, heldLaw_inService, fun _ => nofun,
   fun _ _ => nofun, by show PortMode.sole ≠ .off; decide⟩

theorem test_configPort_off : gives (.configPort high) (ask .configPort (portPayload 1 0 0) inService)
    (fun t => t.portA.state == .off && t.freeSlots == 32 && t.reports.queued.any (fun r => match r with
      | .job r => r.outcome == .portClosed && r.endTime == 100
      | _ => false)) = true := by decide +kernel

/-- A notice owed before is let in by the room that a closed job with a held reply gives back; the port
asks for none. -/
theorem test_configPort_off_owed :
    let s := holding 1 (portA .sole .idle (withJob { job with holdReply := true, replyHeld := true }))
    let full : State := { s with
      portA := { s.portA with ready := [0] }
      portB := { s.portB with notice := .owed }
      reports := { s.reports with reserved := 48, owed := [.port .b] } }
    let closed := closeJobs (full.slotsToClose .a) full
    closed.reports.owed = [] ∧ closed.reports.reserved = 47 ∧ closed.portB.notice = .queued ∧
      closed.portA.notice = .none ∧ closed.reports.queued = [.port .b .off 100] := by decide +kernel

/-- The same for a line's notice. -/
theorem test_configPort_off_owedLine :
    let s := portA .sole .idle (withJob { job with holdReply := true, replyHeld := true })
    let full : State := { holding 1 s with
      portA := { s.portA with ready := [0] }
      lines := s.lines.set 3 { Line.reset with notice := .owed }
      reports := { s.reports with reserved := 48, owed := [.line 3] } }
    let closed := closeJobs (full.slotsToClose .a) full
    closed.reports.owed = [] ∧ (closed.line 3).notice = .queued ∧
      closed.reports.queued = [.event 3 .rising 0 0 100] := by decide +kernel

theorem test_meets_GetPortReadsThePort (b : Byte) :
    (ask .getPort [b] State.reset).MayCarryOut .getPort (req .getPort [b]) := ask_may_reset _ _

theorem test_getPort_reset : gives .getPort (ask .getPort [2] State.reset) (fun t =>
    t.link.tx.map Reply.payload
      == [[0, 2, 0, 0, 0, 0x06, 0x66, 0, 0x19, 0x9A, 1, 0, 0, 0, 0, 0, 0, 0]]) = true := by
  decide +kernel

theorem test_meets_PresenceLossDetachesThePort (ph : Phase) :
    let s := presenceDue true 1 (running job ph true)
    s.Quiet ∧ (s.port .a).present = true ∧ 64 ≤ (s.port .a).presRun ∧
    (s.port .a).settings.mode ≠ .off ∧ (s.port .a).settings.presence = .require ∧
    (s.port .a).state = .running (run ph true) ∧ s.job? (run ph true).slot = some job :=
  ⟨quiet rfl, rfl, by show 64 ≤ 64; decide, by show PortMode.sole ≠ .off; decide, rfl, rfl, rfl⟩

/-- A presence loss in a read byte: counted where its eighth bit was read before it (R135). -/
theorem test_presenceLoss_readByte :
    gives (.presenceLoss .a (octet 0x5A [])) (presenceDue true 1
      (running { active [.address 0x48 .r, .read 49] 1 with
        readTotal := 49, writeLen := 0, blocks := [0, 1] } .read true)) (fun t =>
      (t.job? 0).any (fun j => j.state == .done && j.run.received == 1
        && j.run.outcome == some .detached && j.run.failStep == 1) && Memory.read t.pool 0 == 0x5A
        && t.portA.state == .detached) = true := by decide +kernel

theorem test_meets_PresenceGainSettlesThePort (settle : BitVec 16) (x : PortState) :
    (let s := presenceDue false settle (portA .sole x State.reset);
      s.Quiet ∧ (s.port .a).present = false ∧ 64 ≤ (s.port .a).presRun ∧
      (s.port .a).settings.mode ≠ .off ∧ (s.port .a).settings.presence = .require ∧
      (s.port .a).state = x ∧ (s.port .a).settings.settleTime = settle) ∧
    (let s := portA .sole (.settling 6554) State.reset;
      s.Quiet ∧ (s.port .a).state = .settling 6554 ∧
      (s.port .a).settings.settleTime.toNat ≤ 6554) :=
  ⟨⟨quiet rfl, rfl, by show 64 ≤ 64; decide, by show PortMode.sole ≠ .off; decide, rfl, rfl, rfl⟩,
   quiet rfl, rfl, by decide⟩

theorem test_presenceGain_settle :
    gives (.presenceGain .a) (presenceDue false 1 (portA .sole .detached State.reset))
      (fun t => t.portA.state == .settling 0 && t.portA.present) ∧
    gives (.presenceGain .a) (presenceDue false 0 (portA .sole .detached State.reset))
      (fun t => t.portA.state == .idle && t.reports.queued == [.port .a .idle 0]) := by
  decide +kernel

theorem test_meets_RecoveryAndRecheckMoveThePort (o : Origin) (stage : RecoveryStage) :
    (let s := portA .sole (.recovering o stage) State.reset;
      s.Quiet ∧ s.stretchDue .a = false ∧ (s.port .a).state = .recovering o stage) ∧
    (let s := portA .sole (.stuck 1024) State.reset;
      s.Quiet ∧ (s.port .a).state = .stuck 1024) := by
  refine ⟨⟨quiet rfl, ?_, rfl⟩, quiet rfl, rfl⟩
  rfl

/-- Clauses of the statement at their bounds: nine pulses, a tenth reading. -/
theorem test_recovery_ninePulses :
    gives (.recoveryEnd .a (List.replicate 9 false ++ [true]) (some high))
      (portA .sole (.recovering .settle .release) State.reset)
      (fun t => t.portA.state == .idle && t.portA.notice == .queued) ∧
    gives (.recoveryEnd .a (List.replicate 9 false) none)
      (portA .sole (.recovering .stuck .release) State.reset)
      (fun t => t.portA.state == .recovering .stuck (.pulse 9)) ∧
    gives (.recoveryEnd .a [false] none) (portA .sole (.recovering .run (.pulse 9)) State.reset)
      (fun t => t.portA.state == .stuck 0 && t.portA.notice == .queued) ∧
    gives (.recoveryEnd .a (List.replicate 10 false) none)
      (portA .sole (.recovering .stuck .release) State.reset)
      (fun t => t.portA.state == .stuck 0 && t.portA.notice == .none) := by decide +kernel

/-- What a recovery drives at its stages (R117): nothing at stage 1, SCL in a pulse, both lines in the
STOP, where a wait for SCL finds SDA still low and its timeout fails the recovery. -/
theorem test_recovery_drive :
    let s := portA .sole (.recovering .run .release) State.reset
    let pulse := after (.recoveryEnd .a [false, false] none) s
    let stop := after (.recoveryEnd .a [true] none) pulse
    let waits := after (.tickIncrement ⟨idlePins .begun, []⟩) stop
    s.portA.drive = Drive.released ∧ pulse.portA.drive = { scl := .low, sda := .released } ∧
    stop.portA.state = .recovering .run (.stop 2) ∧ stop.portA.drive = { scl := .low, sda := .low } ∧
    waits.portA.drive = { scl := .released, sda := .low } ∧ waits.portA.stretch = 1 ∧
    (after (.recoveryEnd .a [] (some high)) waits).portA.state = .idle ∧
    (after (.stretchTimeout .a [])
      { waits with portA := { waits.portA with stretch := 1638 } }).portA.state = .stuck 0 := by
  decide +kernel

/-- The STOP of a recovery frees a tracker (R117, R128); readings that end nothing are counted, and no
reading leaves a wait for SCL as it is. -/
theorem test_recovery_stop :
    let s := portA .shared (.recovering .run (.pulse 2)) State.reset
    let s5 : State := { s with portA := { s.portA with tracker := some (.busy 7), stretch := 5 } }
    gives (.recoveryEnd .a [false, true] (some high)) s5
      (fun t => t.portA.state == .idle && t.portA.tracker == some .free) ∧
    gives (.recoveryEnd .a [true] (some { scl := true, sda := false })) s5
      (fun t => t.portA.state == .stuck 0 && t.portA.tracker == some (.busy 7)) ∧
    gives (.recoveryEnd .a [false, false] none) s5
      (fun t => t.portA.state == .recovering .run (.pulse 4)
        && t.portA.tracker == some (.busy 7)) ∧
    gives (.recoveryEnd .a [] (some high)) s5 (fun t => t == s5) := by decide +kernel

theorem test_meets_TheTrackerFollowsTheBus (x : Option Tracker) :
    let s : State := { State.reset with portA := { State.reset.portA with tracker := x } }
    s.Quiet ∧ (s.port .a).tracker = x := ⟨quiet rfl, rfl⟩

/-! ## Hypotheses met: dispatch and the run on the wire -/

/-- The READY job on port A's list. -/
def listed (d : Option Time) : State :=
  let s := portA .sole .idle (withJob { job with deadline := d })
  { s with portA := { s.portA with ready := [0] } }

theorem test_meets_DispatchTakesTheFirstEligible :
    (State.reset.port .a).state ≠ .idle ∧
    ((listed (some 99)).port .a).ready = [0] ∧ (99 : Time).toNat < (listed (some 99)).time.toNat ∧
    ((listed (some 100)).Quiet ∧ ((listed (some 100)).port .a).state = .idle ∧
      ((listed (some 100)).port .a).ready = [] ++ 0 :: [] ∧
      (listed (some 100)).job? 0 = some { job with deadline := some 100 } ∧
      (listed (some 100)).time.toNat ≤ (100 : Time).toNat) :=
  ⟨by decide, rfl, by decide, quiet rfl, rfl, rfl, rfl, by decide⟩

theorem test_dispatch_deadline :
    gives (.dispatch .a) (listed (some 99)) (fun t => t.portA.state == .idle && t.portA.ready == [0]) ∧
    gives (.dispatch .a) (listed (some 100)) (fun t => t.portA.state == .running (Run.begin 0)
      && t.portA.ready == [] && (t.job? 0).any (fun j => j.state == .active)) := by decide +kernel

theorem onWire (j : Job) (ph : Phase) (held : Bool) :
    (running j ph held).OnWire .a (run ph held) ph := by
  refine ⟨quiet rfl, ?_, rfl, rfl⟩
  rfl

theorem runsJob (steps : List Machine.Step) (cur : Nat) (ph : Phase) (held : Bool) :
    (running (active steps cur) ph held).RunsJob (run ph held) (active steps cur) := ⟨rfl, rfl, rfl⟩

/-- The job in a run with its stopping field set. -/
def stoppingJob : Job := { active job.steps 1 with stopping := true }

theorem test_meets_TheRunStartChecksTheLines :
    (running (active job.steps 0) .runStart false).OnWire .a (run .runStart false) .runStart ∧
    (running (active job.steps 0) .runStart false).job? 0 = some (active job.steps 0) ∧
    ((running (active job.steps 0) .runStart false).port .a).settings.mode = .sole ∧
    (running stoppingJob .runStart false).job? 0 = some stoppingJob :=
  ⟨onWire _ _ _, rfl, rfl, rfl⟩

theorem test_runStart_lines :
    gives (.runStart .a { scl := true, sda := false }) (running (active job.steps 0) .runStart false)
      (fun t => t.portA.state == .recovering .run .release && t.portA.ready == [0]
        && (t.job? 0).any (fun j => j.state == .ready && j.retriesLeft == 1)) ∧
    gives (.runStart .a high) (running (active job.steps 0) .runStart false)
      (fun t => t.portA.state == .running { run .start false with phase := .start }) := by
  decide +kernel

theorem test_meets_EachStepIsTakenByItsKind (held : Bool) :
    (running (active job.steps 0) .runStart held).RunsJob (run .runStart held)
      (active job.steps 0) ∧ (run .runStart held).held = held := ⟨runsJob _ _ _ _, rfl⟩

theorem test_meets_StartHoldsTheBus (held : Bool) :
    (running (active job.steps 0) .start held).OnWire .a (run .start held) .start ∧
    (running (active job.steps 0) .start held).RunsJob (run .start held) (active job.steps 0) ∧
    (active job.steps 0).steps[(active job.steps 0).run.curStep]? = some (.address 0x48 .w) ∧
    (∀ n, ((running (active job.steps 0) .start held).port .a).tracker ≠ some (.busy n)) :=
  ⟨onWire _ _ _, runsJob _ _ _ _, rfl, fun _ => nofun⟩

/-- The run before a START of a busy bus. -/
def busBusy : State :=
  let s := running (active job.steps 0) .start false
  { s with portA := { s.portA with tracker := some (.busy 63) } }

/-- No START with a BUSY tracker or a line low (R126, R128); one with the bus free drives both lines. -/
theorem test_start_bus :
    gives (.start ⟨.a, high⟩) busBusy (fun t => t == busBusy.readLines .a high) ∧
    gives (.start ⟨.a, { scl := true, sda := false }⟩) (running (active job.steps 0) .start false)
      (fun t => t.portA.state == .running (run .start false) && t.portA.drive == Drive.released) ∧
    gives (.start ⟨.a, high⟩) (running (active job.steps 0) .start false)
      (fun t => t.portA.drive == Drive.bothLow
        && t.portA.state == .running (run .address true)) := by decide +kernel

/-- A job at a POLL with limit 2. -/
def polling : Job := active [.poll 0x50 2 1] 0

/-- No loss shows in any reading of a byte on a SOLE port. -/
theorem wins_sole (j : Job) (ph : Phase) (held : Bool) (n : Nat) (all : List Bool) (c : Nat → Prop) :
    ((running j ph held).port .a).Wins n all c := nofun

theorem test_meets_AddressAndPollActOnTheirAcknowledge :
    ((running (active job.steps 0) .address true).OnWire .a (run .address true) .address ∧
      (running (active job.steps 0) .address true).RunsJob (run .address true)
        (active job.steps 0)) ∧
    ((running polling .poll true).OnWire .a (run .poll true) .poll ∧
      (running polling .poll true).RunsJob (run .poll true) polling ∧
      polling.steps[polling.run.curStep]? = some (.poll 0x50 2 1)) :=
  ⟨⟨onWire _ _ _, runsJob _ _ _ _⟩, onWire _ _ _, ⟨rfl, rfl, rfl⟩, rfl⟩

/-- A byte that a SHARED port sends, all nine bits of it and some: 0 bits that read low show no loss, and a
1 bit that reads high does not. -/
theorem test_meets_AddressAndPollActOnTheirAcknowledge_shared :
    let x := (portA .shared (.running (run .address true)) (withJob (active job.steps 0))).port .a
    x.settings.mode = .shared ∧ (run .address true).bits = [] ∧
    (∀ n ≤ 9, x.Wins 0 ((octet 0x90 [false]).take n)
      (fun k => k < 8 ∧ (0x90 : Byte).getLsbD (7 - k) = true)) ∧
    (octet 0x90 [false]).length = 9 ∧ (octet 0x90 [false])[8]? = some false := by
  refine ⟨rfl, rfl, fun n hn _ k _ hk => ?_, rfl, rfl⟩
  have all : ∀ n ≤ 9, ∀ k < 8, (0x90 : Byte).getLsbD (7 - k) = true →
      ((octet 0x90 [false]).take n)[k]? ≠ some false := by decide
  exact all n hn k hk.1 hk.2

/-- 48h for reading is sent as 91h (R127), a POLL of 50h as A0h, a WRITE its data byte. -/
theorem test_bytes_sent :
    gives (.address .a (octet 0x91 [false]))
      (running (active [.address 0x48 .r, .read 1] 0) .address true)
      (fun t => t.portA.sent == some 0x91 && t.portA.drive == Drive.holding) ∧
    gives (.poll .a (octet 0xA0 [true])) (running polling .poll true)
      (fun t => t.portA.sent == some 0xA0) ∧
    gives (.write .a (octet 0xAB [false])) { running (active job.steps 1) .write true with
      pool := Memory.write [] 0 0xAB } (fun t => t.portA.sent == some 0xAB) := by decide +kernel

/-- 91h on SDA, the most significant bit first (R124, R127): released for a 1, low for a 0, and after each
bit SCL low; nothing is sent before its ninth bit, in which SDA is released. -/
theorem test_bits_sent :
    let s := running (active [.address 0x48 .r, .read 1] 0) .address true
    let data : List Pull := [.released, .low, .low, .released, .low, .low, .low, .released]
    let first := after (.address .a [true]) s
    let third := after (.address .a [false, false]) first
    let eighth := after (.address .a (octet 0x91 [])) s
    first.portA.pulls = [.released] ∧ first.portA.drive = { scl := .low, sda := .released } ∧
    third.portA.pulls = data.take 3 ∧ third.portA.drive = { scl := .low, sda := .low } ∧
    third.portA.state = .running { run .address true with bits := [true, false, false] } ∧
    eighth.portA.pulls = data ∧ eighth.portA.sent = none ∧
    (after (.address .a [false]) eighth).portA.pulls = data ++ [.released] ∧
    (after (.address .a [false]) eighth).portA.sent = some 0x91 := by decide +kernel

/-- A stretch in a 1 bit of an address byte finds SDA released, and in a 0 bit SDA low (R124, R125). -/
theorem test_bits_stretch :
    let s := running (active [.address 0x48 .r, .read 1] 0) .address true
    let tick (t : State) : Drive := (after (.tickIncrement ⟨idlePins .begun, []⟩) t).portA.drive
    tick s = { scl := .released, sda := .released } ∧
    tick (after (.address .a [true]) s) = { scl := .released, sda := .low } ∧
    tick (after (.address .a (octet 0x91 [])) s) = { scl := .released, sda := .released } := by
  decide +kernel

/-- The POLL at an attempt. -/
def attempt (n : Nat) : State :=
  portA .sole (.running { run .poll true with attempts := n }) (withJob polling)

theorem test_poll_limit :
    gives (.poll .a (octet 0xA0 [true])) (attempt 1)
      (fun t => t.portA.state == .running { run (.stop .pollGap) true with attempts := 1 }) ∧
    gives (.poll .a (octet 0xA0 [true])) (attempt 2)
      (fun t => t.portA.state == .running { run (.stop .failed) true with attempts := 2 }
        && (t.job? 0).any (fun j => j.run.outcome == some .pollLimit)) := by decide +kernel

/-- A job at the last step of a list of reads. -/
def reading (n : Nat) : Job :=
  { active [.address 0x48 .r, .read n] 1 with readTotal := n, writeLen := 0, blocks := [0] }

theorem test_meets_BytesMoveTheCursors :
    ((running (active job.steps 1) .write true).OnWire .a (run .write true) .write ∧
      (running (active job.steps 1) .write true).RunsJob (run .write true) (active job.steps 1) ∧
      (active job.steps 1).steps[(active job.steps 1).run.curStep]? = some (.write 1)) ∧
    ((running (reading 2) .read true).OnWire .a (run .read true) .read ∧
      (running (reading 2) .read true).RunsJob (run .read true) (reading 2) ∧
      (reading 2).steps[(reading 2).run.curStep]? = some (.read 2) ∧
      (reading 2).run.curByte + 1 < 2 ∧ (running (reading 2) .read true).PoolLaw) :=
  ⟨⟨onWire _ _ _, runsJob _ _ _ _, rfl⟩, onWire _ _ _, ⟨rfl, rfl, rfl⟩, rfl, by decide, rfl⟩

/-- A job at a READ that a MARK and a PAUSE HOLD part from the next. -/
def continuedRead : Job :=
  { active [.address 0x48 .r, .read 1, .mark, .pause .hold 9, .read 1] 1 with
    readTotal := 2, writeLen := 0, blocks := [0] }

/-- A byte in progress, seven of its bits read: its eighth, or both that are left. -/
theorem test_meets_BytesMoveTheCursors_bits :
    let r : Run := { run .read true with bits := (octet 0x11 []).take 7 }
    let s := portA .shared (.running r) (withJob (reading 1))
    (s.OnWire .a r .read ∧ s.RunsJob r (reading 1)) ∧
    (∀ k, k < 8 → (r.bits ++ [true, true])[k]? = some ((0x11 : Byte).getLsbD (7 - k))) ∧
    (s.port .a).Wins r.bits.length (r.bits ++ [true, true]) (fun k => k = 8 ∧ true = true) ∧
    (r.bits.length < 8 ∧ 8 ≤ (r.bits ++ [true]).length ∧ (r.bits ++ [true]).length < 9) ∧
    (r.bits ++ [true, true]).length = 9 := by
  refine ⟨⟨⟨quiet rfl, ?_, rfl, rfl⟩, rfl, rfl, rfl⟩, by decide, fun _ k _ h => ?_, by decide, rfl⟩
  · rfl
  · obtain ⟨rfl, -⟩ := h
    decide

/-- The last byte of a READ: continued by a later READ, or not. -/
theorem test_meets_BytesMoveTheCursors_continued :
    (∃ k count, continuedRead.run.curStep < k ∧ continuedRead.steps[k]? = some (.read count) ∧
      ∀ i, continuedRead.run.curStep < i → i < k → continuedRead.steps[i]? = some .mark ∨
        ∃ ticks, continuedRead.steps[i]? = some (.pause .hold ticks)) ∧
    ¬(∃ k count, (reading 1).run.curStep < k ∧ (reading 1).steps[k]? = some (.read count) ∧
      ∀ i, (reading 1).run.curStep < i → i < k → (reading 1).steps[i]? = some .mark ∨
        ∃ ticks, (reading 1).steps[i]? = some (.pause .hold ticks)) := by
  refine ⟨⟨4, 1, by decide, rfl, fun i hi hk => ?_⟩, ?_⟩
  · have h : i = 2 ∨ i = 3 := by
      have : 1 < i := hi
      omega
    rcases h with rfl | rfl
    · exact .inl rfl
    · exact .inr ⟨9, rfl⟩
  · rintro ⟨k, count, hk, hr, -⟩
    have h2 : 2 ≤ k := hk
    rw [List.getElem?_eq_none (show (reading 1).steps.length ≤ k from h2)] at hr
    cases hr

/-- The ninth bit given (R32, R127, R135): ACK within a READ and at the end of a continued one, though the
run is committed already; NAK at the end of one that is not, and with the stopping field set. -/
theorem test_read_ninthBit :
    let committed (j : Job) : State :=
      portA .sole (.running { run .read true with committed := true }) (withJob j)
    gives (.read .a (octet 0x11 [false])) (committed (reading 2)) (fun t => t.portA.gave == some .ack) ∧
    gives (.read .a (octet 0x11 [false])) (committed continuedRead) (fun t => t.portA.gave == some .ack) ∧
    gives (.read .a (octet 0x11 [true])) (committed (reading 1)) (fun t => t.portA.gave == some .nak) ∧
    gives (.read .a (octet 0x11 [true])) (committed { reading 2 with stopping := true })
      (fun t => t.portA.gave == some .nak) := by decide +kernel

theorem test_read_counts :
    gives (.read .a (octet 0x11 [false])) (running (reading 2) .read true) (fun t =>
      (t.job? 0).any (fun j => j.run.received == 1 && j.run.curByte == 1)
        && Memory.read t.pool 0 == 0x11
        && t.portA.state == .running { run .read true with readCursor := 1, committed := true }) ∧
    gives (.read .a (octet 0x11 [true])) (running (reading 1) .read true) (fun t =>
      t.portA.state == .running { run (.stop .implied) true with readCursor := 1 }) := by
  decide +kernel

/-- A read byte comes the most significant bit first, SDA released; it is stored with its eighth bit, and
SDA is low in the ninth for ACK (R45, R127, R135). -/
theorem test_read_bits :
    let s := running (reading 2) .read true
    let seventh := after (.read .a ((octet 0x92 []).take 7)) s
    let eighth := after (.read .a [false]) seventh
    Memory.read seventh.pool 0 = 0 ∧ Memory.read eighth.pool 0 = 0x92 ∧
    (eighth.job? 0).any (fun j => j.run.received == 1 && j.run.curByte == 0) ∧
    eighth.portA.pulls = List.replicate 8 .released ∧ eighth.portA.gave = none ∧
    (after (.tickIncrement ⟨idlePins .begun, []⟩) eighth).portA.drive
      = { scl := .released, sda := .low } ∧
    (after (.read .a [false]) eighth).portA.pulls = List.replicate 8 .released ++ [.low] ∧
    (after (.read .a [false]) eighth).portA.gave = some .ack ∧
    (after (.read .a [false]) eighth).portA.drive = Drive.holding := by decide +kernel

theorem test_write_acks :
    gives (.write .a (octet 0 [false])) (running (active job.steps 1) .write true) (fun t => t.portA.state
      == .running { run (.stop .implied) true with writeCursor := 1, committed := true }) ∧
    gives (.write .a (octet 0 [true])) (running (active job.steps 1) .write true) (fun t =>
      t.portA.state == .running (run (.stop .failed) true)
        && (t.job? 0).any (fun j => j.run.outcome == some .refused && j.run.failStep == 1)) := by
  decide +kernel

theorem test_meets_StopReleasesTheBus (a : AfterStop) :
    (running (active job.steps 1) (.stop a) true).OnWire .a (run (.stop a) true) (.stop a) ∧
    (running (active job.steps 1) (.stop a) true).RunsJob (run (.stop a) true)
      (active job.steps 1) := ⟨onWire _ _ _, runsJob _ _ _ _⟩

theorem test_meets_ASetStoppingFieldEndsTheRun (ph : Phase) :
    (running stoppingJob ph true).job? (run ph true).slot = some stoppingJob ∧
    stoppingJob.state = .active ∧ stoppingJob.stopping = true ∧ (run ph true).held = true ∧
    (running stoppingJob ph true).OnWire .a (run ph true) ph ∧
    stoppingJob.steps[stoppingJob.run.curStep]? = some (.write 1) ∧
    (running stoppingJob .write true).Sends (run .write true) stoppingJob 0 :=
  ⟨rfl, rfl, rfl, rfl, onWire _ _ _, rfl, .inr (.inr ⟨rfl, rfl⟩)⟩

/-- The job at its ADDRESS and a POLL, with their stopping field set. -/
theorem test_meets_ASetStoppingFieldEndsTheRun_address :
    let j : Job := { active job.steps 0 with stopping := true }
    let k : Job := { polling with stopping := true }
    ((running j .address true).OnWire .a (run .address true) .address ∧
      (running j .address true).Sends (run .address true) j 0x90) ∧
    ((running k .poll true).OnWire .a (run .poll true) .poll ∧
      (running k .poll true).Sends (run .poll true) k 0xA0) ∧
    ((running j .start false).OnWire .a (run .start false) .start ∧
      (run .start false).held = false ∧
      ∀ n, ((running j .start false).port .a).tracker ≠ some (.busy n)) :=
  ⟨⟨onWire _ _ _, .inl ⟨0x48, .w, rfl, rfl, rfl⟩⟩,
   ⟨onWire _ _ _, .inr (.inl ⟨0x50, 2, 1, rfl, rfl, rfl⟩)⟩, onWire _ _ _, rfl, fun _ => nofun⟩

theorem test_stopping_acts :
    gives (.write .a (octet 0 [false])) (running stoppingJob .write true) (fun t =>
      t.portA.state == .running { run (.stop .stopping) true with committed := true, writeCursor := 1 }
        && (t.job? 0).any (fun j => j.run.failStep == 1)) ∧
    gives (.stop .a) (running stoppingJob (.stop .stopping) true) (fun t =>
      t.portA.state == .idle && t.reports.queued.any (fun r => match r with
        | .job r => r.outcome == .cancelled
        | _ => false)) := by decide +kernel

/-- A run that has waited `n` increments at a step. -/
def waited (steps : List Machine.Step) (ph : Phase) (held : Bool) (n : Nat) : State :=
  portA .sole (.running { run ph held with pauseCount := n }) (withJob (active steps 0))

theorem test_meets_WaitsEndAtTheirCount (st : Machine.Step) (ph : Phase) (held : Bool) (n : Nat) :
    let s := waited [st] ph held n
    s.Quiet ∧ (s.port .a).state = .running { run ph held with pauseCount := n } ∧
    s.job? 0 = some (active [st] 0) ∧
    (active [st] 0).steps[(active [st] 0).run.curStep]? = some st := ⟨quiet rfl, rfl, rfl, rfl⟩

theorem test_waits_bounds :
    gives (.pollGapEnd .a) (waited [.poll 0x50 2 1] .pollGap false 63)
      (fun t => t == waited [.poll 0x50 2 1] .pollGap false 63) ∧
    gives (.pollGapEnd .a) (waited [.poll 0x50 2 1] .pollGap false 64)
      (fun t => (t.run? .a).any (fun r => r.phase == .start && r.attempts == 1)) ∧
    gives (.pauseHoldEnd .a) (waited [.pause .hold 9, .mark] .pauseHold true 9)
      (fun t => (t.run? .a).any (fun r => r.phase == .stop .implied)
        && (t.job? 0).any (fun j => j.run.marks == [100])) ∧
    gives (.pauseFreeEnd .a) (waited [.pause .free 9] .pauseFree false 8)
      (fun t => (t.run? .a).any (fun r => r.phase == .pauseFree)) := by decide +kernel

/-- Port A at its stretch limit. -/
def stretched (s : State) : State := { s with portA := { s.portA with stretch := 1638 } }

theorem test_meets_AStretchTimeoutStallsTheRun (a : AfterStop) (o : Origin) :
    (State.reset.port .a).stretch < (State.reset.port .a).settings.stretchLimit.toNat ∧
    (let s := stretched (portA .sole (.recovering o (.stop 3)) State.reset);
      s.Quiet ∧ (s.port .a).settings.stretchLimit.toNat ≤ (s.port .a).stretch ∧
      (s.port .a).state = .recovering o (.stop 3)) ∧
    (let s := stretched (running (active job.steps 1) (.stop a) true);
      s.Quiet ∧ (s.port .a).settings.stretchLimit.toNat ≤ (s.port .a).stretch ∧
      (s.port .a).state = .running (run (.stop a) true) ∧ (run (.stop a) true).held = true ∧
      s.job? 0 = some (active job.steps 1)) :=
  ⟨by decide, ⟨quiet rfl, by show 1638 ≤ 1638; decide, rfl⟩, quiet rfl,
   by show 1638 ≤ 1638; decide, rfl, rfl, rfl⟩

theorem test_stretch_stalls :
    gives (.stretchTimeout .a []) (stretched (running (active job.steps 1) .write true)) (fun t =>
      t.portA.state == .recovering .run .release && t.reports.queued.any (fun r => match r with
        | .job r => r.outcome == .stalled && r.failStep == 1
        | _ => false)) = true := by decide +kernel

/-- Whether a report is a run's, with this outcome and end time. -/
def endsRun (o : JobOutcome) (at_ : Time) (r : Report) : Bool :=
  match r with
  | .job r => r.outcome == o && r.endTime == at_
  | _ => false

/-- A timeout and a presence loss that come before the evaluation of the increment from 100 to 101 end the
run at 101 (R141, R146), and a dispatch that does reads 100 (R64). -/
theorem test_early_readings :
    let m := idlePins .goesOn
    let s := running (active job.steps 1) .write true
    let late : State := { s with portA := { s.portA with stretch := 1637 } }
    let gone := presenceDue true 1 s
    let lost : State := { gone with portA := { gone.portA with presRun := 63 } }
    gives (.tickIncrement ⟨m, [.port .a]⟩) late (fun t => t.time == 101
      && t.reports.queued.any (endsRun .stalled 101)
      && t.portA.state == .recovering .run .release) ∧
    gives (.tickIncrement ⟨m, [.port .a]⟩) lost (fun t => t.time == 101
      && t.reports.queued.any (endsRun .detached 101)
      && t.reports.queued.any (fun r => r == .port .a .detached 101)) ∧
    gives (.tickIncrement ⟨m, [.dispatch .a]⟩) (listed (some 100)) (fun t => t.time == 101
      && (t.job? 0).any (fun j => j.state == .active)) := by decide +kernel

/-- At its run end a recurring job is compared with its deadline 100 at 100 where the end comes before the
evaluation of the increment to 101, and at 101 where it comes after (R21, R53). -/
theorem test_early_deadline :
    let s := running { recurring 0 with deadline := some 100 } .write true
    let late : State := { s with portA := { s.portA with stretch := 1637 } }
    gives (.tickIncrement ⟨idlePins .goesOn, [.port .a]⟩) late
      (fun t => (t.job? 0).any (fun j => j.state == .pending)) ∧
    gives (.stretchTimeout .a []) (after (.tickIncrement ⟨idlePins .goesOn, []⟩) late)
      (fun t => t.freeSlots == 32) := by decide +kernel

/-- A SHARED port in a run. -/
def shared (j : Job) (r : Run) : State := portA .shared (.running r) (withJob j)

theorem test_meets_ArbitrationLossEndsOrRetriesTheRun (r : Run) (h : r.slot = 0) (j : Job) :
    (shared j r).Quiet ∧ (shared j r).stretchDue .a = false ∧
    ((shared j r).port .a).settings.mode = .shared ∧
    ((shared j r).port .a).state = .running r ∧ (shared j r).job? r.slot = some j := by
  refine ⟨quiet rfl, ?_, rfl, rfl, ?_⟩
  · rfl
  · rw [h]
    rfl

/-- A run at a bit of a byte. -/
def atBit (ph : Phase) (bits : List Bool) : Run := { run ph true with bits := bits }

/-- The bits of 90h at which arbitration is checked, and the NAK of a read byte. -/
theorem test_meets_ArbitrationLossEndsOrRetriesTheRun_bits :
    let sending (bits : List Bool) : State := shared (active job.steps 0) (atBit .address bits)
    (∀ bits, (sending bits).Sends (atBit .address bits) (active job.steps 0) 0x90) ∧
    ((0x90 : Byte).getLsbD (7 - 0) = true ∧ (0x90 : Byte).getLsbD (7 - 1) = false ∧
      (0x90 : Byte).getLsbD (7 - 7) = false) ∧
    ((shared (reading 1) (atBit .read (octet 1 []))).port .a).state
      = .running (atBit .read (octet 1 [])) ∧
    (octet 1 []).length = 8 ∧ (reading 1).readNak = true ∧ (reading 2).readNak = false :=
  ⟨fun _ => .inl ⟨0x48, .w, rfl, rfl, rfl⟩, by decide, rfl, rfl, by decide, by decide⟩

theorem test_arbitration :
    gives (.arbitrationLoss .a []) (shared (active job.steps 0) (run .address true)) (fun t =>
      t.portA.state == .idle && t.portA.ready == [0] && (t.job? 0).any (fun j =>
        j.state == .ready && j.retriesLeft == 0 && j.run.retriesUsed == 1)) ∧
    gives (.arbitrationLoss .a [])
      (shared { active job.steps 0 with retriesLeft := 0 } (run .address true)) (fun t =>
        t.reports.queued.any (fun r => match r with
          | .job r => r.outcome == .arbLost
          | _ => false)) ∧
    gives (.arbitrationLoss .a [])
      (shared (active job.steps 0) { run (.stop .step) true with committed := true }) (fun t =>
        t.reports.queued.any (fun r => match r with
          | .job r => r.outcome == .arbLostPartial
          | _ => false)) := by decide +kernel

/-- No loss on a SOLE port, in a 0 bit, in the acknowledge of a byte that is sent, in a read byte that is
not NAKed or is still in progress, or in a START of a bus not held (R129). -/
theorem test_arbitration_none :
    let stands (i : Instr) (s : State) : Bool := gives i s (fun t => t == s)
    stands (.arbitrationLoss .a []) (running (active job.steps 0) .address true) ∧
    stands (.arbitrationLoss .a []) (shared (active job.steps 1) (run .write true)) ∧
    stands (.arbitrationLoss .a []) (shared (active job.steps 0) (atBit .address [true])) ∧
    stands (.arbitrationLoss .a []) (shared (active job.steps 0) (atBit .address (octet 0x90 []))) ∧
    stands (.arbitrationLoss .a []) (shared (reading 2) (atBit .read (octet 1 []))) ∧
    stands (.arbitrationLoss .a []) (shared (reading 1) (run .read true)) ∧
    stands (.arbitrationLoss .a []) (shared (active job.steps 0) (run .start false)) ∧
    gives (.arbitrationLoss .a []) (after (.read .a (octet 1 [])) (shared (reading 1) (run .read true)))
      (fun t => t.portA.state == .idle && Memory.read t.pool 0 == 1) := by decide +kernel

/-- A 1 bit that reads low on a SHARED port is not taken, and ends the bits of its row there; on a SOLE port
it is not read (R129). -/
theorem test_arbitration_bits :
    gives (.address .a [false, true]) (shared (active job.steps 0) (run .address true))
      (fun t => t == shared (active job.steps 0) (run .address true)) ∧
    gives (.address .a [true, false, false, false, true])
      (shared (active job.steps 0) (run .address true))
      (fun t => t.portA.state == .running (atBit .address [true, false, false])) ∧
    gives (.read .a (octet 1 [false])) (shared (reading 1) (run .read true)) (fun t =>
      t.portA.state == .running { atBit .read (octet 1 []) with readCursor := 1 }) ∧
    gives (.address .a [false]) (running (active job.steps 0) .address true)
      (fun t => t.portA.state == .running (atBit .address [false])) := by decide +kernel

/-- Bits that come with an event are taken before it: a loss at the next 1 bit of 90h, none at a 0 bit, and
no bit where a stretch timeout is due (log 7). -/
theorem test_bits_withEvents :
    let s := shared (active job.steps 0) (run .address true)
    gives (.arbitrationLoss .a [true, false, false]) s (fun t => t.portA.state == .idle
      && t.portA.pulls == [.released, .low, .low]) ∧
    gives (.arbitrationLoss .a [true]) s
      (fun t => t.portA.state == .running (atBit .address [true])) ∧
    gives (.stretchTimeout .a [true]) s
      (fun t => t.portA.state == .running (atBit .address [true])) ∧
    gives (.stretchTimeout .a [true]) (stretched s)
      (fun t => t.portA.state == .recovering .run .release && t.portA.pulls == []) := by decide +kernel

/-! ## Hypotheses met: the laws -/

theorem test_meets_EveryStepKeepsPoolLinesAndLink :
    inService.PoolLaw ∧ inService.PinLaw ∧ inService.DriveLaw ∧ inService.BitLaw ∧
    inService.CaptureLaw ∧ inService.LinkLaw ∧ step inService = .next inService := by
  refine ⟨rfl, fun h => absurd rfl h, fun p _ _ => by cases p <;> rfl,
    (fun p r h => by cases p <;> cases h), ?_,
    ⟨by decide, by decide, by decide, fun _ => nofun, nofun⟩, rfl⟩
  intro l hl
  have e : l = Line.reset := List.eq_of_mem_replicate (n := 8) hl
  subst e
  exact ⟨by decide, by decide, fun _ => ⟨rfl, rfl⟩⟩

/-- The law of bits says something of a run in a byte. -/
theorem test_meets_BitLaw :
    let s := after (.address .a [true]) (running (active job.steps 0) .address true)
    s.portA.state = .running (atBit .address [true]) ∧ s.portB.state = .off ∧ s.BitLaw := by
  refine ⟨by decide +kernel, by decide +kernel, fun p r h => ?_⟩
  have ha : (after (.address .a [true]) (running (active job.steps 0) .address true)).portA.state
      = .running (atBit .address [true]) := by decide +kernel
  have hb : (after (.address .a [true]) (running (active job.steps 0) .address true)).portB.state
      = .off := by decide +kernel
  have hp : (after (.address .a [true])
      (running (active job.steps 0) .address true)).portA.pulls.length = 1 := by decide +kernel
  cases p with
  | a =>
    cases ha.symm.trans h
    exact ⟨by decide, nofun, fun _ => hp⟩
  | b => cases hb.symm.trans h

/-- The drive law says something of a recovery at stage 1, and of a run that waits for the bus. -/
theorem test_meets_DriveLaw (x : PortState)
    (h : x = .recovering .run .release ∨ x = .running (run .start false)) :
    (portA .sole x State.reset).DriveLaw ∧
    (∀ r, x = .running r → r.phase = .start ∧ r.held = false) ∧
    (∀ origin stage, x = .recovering origin stage → stage = .release) := by
  refine ⟨fun p _ _ => by cases p <;> rfl, fun r hr => ?_, fun o st hs => ?_⟩
  · rcases h with h | h <;> rw [h] at hr <;> cases hr
    exact ⟨rfl, rfl⟩
  · rcases h with h | h <;> rw [h] at hs <;> cases hs
    rfl

theorem test_meets_EveryStepKeepsTheReportQueue : inService.QueueLaw := by
  refine ⟨by decide, by decide, fun h => absurd rfl h, fun i j h _ => ?_⟩
  rw [job_inService h]
  rfl

theorem getD_reset (m n : Nat) : (List.replicate m Line.reset).getD n Line.reset = Line.reset := by
  by_cases h : n < m <;> simp [List.getD_eq_getElem?_getD, h]

theorem notice_inService (src : Source) : inService.noticeState src = .none := by
  cases src with
  | line n =>
    show (inService.lines.getD n Line.reset).notice = .none
    have : inService.lines.getD n Line.reset = Line.reset := by
      show (List.replicate 8 Line.reset).getD n Line.reset = Line.reset
      exact getD_reset 8 n
    rw [this]
    rfl
  | port p => cases p <;> rfl

theorem test_meets_EveryStepKeepsTheNotices : inService.NoticeLaw := by
  refine ⟨rfl, List.nodup_nil, fun _ => nofun, fun _ => nofun, fun src _ => ⟨?_, ?_⟩⟩
  · rw [notice_inService]
    exact ⟨nofun, nofun⟩
  · rw [notice_inService]
    rfl

theorem test_meets_EveryStepKeepsTheJobTable : inService.TableLaw :=
  tableLaw_withJob (j := waits (some .a) (.atTime 200)) (by decide) rfl rfl

theorem test_meets_EveryStepKeepsTheDispatcher : inService.DispatchLaw := dispatchLaw_inService

theorem test_meets_EveryStepKeepsTheHeldReply : inService.TableLaw ∧ inService.HeldLaw :=
  ⟨test_meets_EveryStepKeepsTheJobTable, heldLaw_inService⟩

end Sys2Proof.Tests
end

section
/-! SUPPORT. The live job a tag names (R2), and what JOB_STATUS, FETCH and RELEASE answer and change
(R25, R26, R49). -/

namespace Sys2Proof.Machine

/-! ### The slot of a tag (R2) -/

/-- A tag names no slot exactly when no live job has it. -/
theorem State.findSlot_eq_none_iff {s : State} {tag : Tag} :
    s.findSlot tag = none ↔ ∀ i j, s.job? i = some j → j.tag ≠ tag := by
  simp only [State.findSlot, List.findIdx?_eq_none_iff]
  constructor
  · intro h i j hj ht
    have hl := State.job_lt hj
    have hm : some j ∈ s.slots := by
      rw [← hj]
      simp [State.job?, List.getD_eq_getElem?_getD, hl]
    simpa [ht] using h _ hm
  · intro h o ho
    obtain ⟨i, hi, rfl⟩ := List.mem_iff_getElem.1 ho
    cases hj : s.slots[i] with
    | none => rfl
    | some j =>
      have : s.job? i = some j := by simp [State.job?, List.getD_eq_getElem?_getD, hi, hj]
      simpa using h i j this

/-- A slot that a tag names holds a live job with that tag. -/
theorem State.job_of_findSlot {s : State} {tag : Tag} {slot : Nat} (h : s.findSlot tag = some slot) :
    ∃ j, s.job? slot = some j ∧ j.tag = tag := by
  obtain ⟨hl, hp, -⟩ := List.findIdx?_eq_some_iff_getElem.1 h
  obtain ⟨j, hj, ht⟩ := (Option.any_eq_true _ _).1 hp
  exact ⟨j, by simp [State.job?, List.getD_eq_getElem?_getD, hl, hj], by simpa using ht⟩

/-- No two live jobs share a tag, so a live job's tag names its own slot. -/
theorem State.TableLaw.findSlot {s : State} (law : s.TableLaw) {slot : Nat} {j : Job}
    (hj : s.job? slot = some j) : s.findSlot j.tag = some slot := by
  obtain ⟨-, -, distinct⟩ := law
  cases h : s.findSlot j.tag with
  | none => exact absurd rfl (State.findSlot_eq_none_iff.1 h slot j hj)
  | some found =>
    obtain ⟨k, hk, ht⟩ := State.job_of_findSlot h
    by_cases e : found = slot
    · rw [e]
    · exact absurd ht (distinct found slot k j hk hj e).1

/-! ### Requests that reply after their effect -/

/-- A request that only reads is answered and leaves the state as it stands. -/
theorem replying_read (f : List Byte → State → State × List Byte) (s : State) (r : Request)
    {payload : List Byte} (h : f r.payload s.emptyHand = (s.emptyHand, payload)) :
    replying f r s.emptyHand = s.replied r payload := by
  simp only [replying, h]
  exact State.emptyHand_answer s r payload

/-- JOB_STATUS in hand is answered and changes nothing (R25); a held reply does not stand in its way. -/
theorem exec_jobStatus_of_mayTake {s : State} {r : Request} (h : s.MayTake .jobStatus r)
    (hl : r.payload.length = 2) :
    exec .jobStatus s = .next (s.replied r (s.statusPayload r.payload)) := by
  have hz : Kind.jobStatus.sizeOk r.payload.length = true := by rw [hl]; rfl
  have quiet : s.Quiet := h.1
  show Host.Outcome.next (s.beforeEvent.serve .jobStatus openAlways _) = _
  rw [quiet.beforeEvent, State.serve_body h hz (fun _ => rfl)]
  exact congrArg _ (replying_read _ s r rfl)

/-- FETCH in hand, with no reply held, is answered and changes nothing (R49). -/
theorem exec_fetch_of_mayCarryOut {s : State} {r : Request} (h : s.MayCarryOut .fetch r)
    (hl : r.payload.length = 6) :
    exec .fetch s = .next (s.replied r (s.fetchPayload r.payload)) := by
  have hz : Kind.fetch.sizeOk r.payload.length = true := by rw [hl]; rfl
  have quiet : s.Quiet := h.1.1
  show Host.Outcome.next (s.beforeEvent.serve .fetch openNever _) = _
  rw [quiet.beforeEvent, State.serve_carriesOut h hz]
  exact congrArg _ (replying_read _ s r rfl)

/-- RELEASE in hand, with no reply held, is carried out on the state with an empty hand (R26). -/
theorem exec_release_of_mayCarryOut {s : State} {r : Request} (h : s.MayCarryOut .release r)
    (hl : r.payload.length = 2) :
    exec .release s = .next (replying releaseEffect r s.emptyHand) := by
  have hz : Kind.release.sizeOk r.payload.length = true := by rw [hl]; rfl
  have quiet : s.Quiet := h.1.1
  show Host.Outcome.next (s.beforeEvent.serve .release openNever _) = _
  rw [quiet.beforeEvent, State.serve_carriesOut h hz]

/-! ### JOB_STATUS (R25) -/

theorem State.statusPayload_noSuchJob {s : State} {p : List Byte}
    (h : ∀ i j, s.job? i = some j → j.tag ≠ tagAt p) : s.statusPayload p = [0x30] := by
  simp only [State.statusPayload, State.findSlot_eq_none_iff.2 h]
  rfl

theorem State.statusPayload_live {s : State} {p : List Byte} {slot : Nat} {j : Job}
    (law : s.TableLaw) (hj : s.job? slot = some j) (ht : j.tag = tagAt p) :
    s.statusPayload p = 0x00 :: j.statusBytes := by
  simp only [State.statusPayload, ← ht, law.findSlot hj, Option.bind_some, hj]
  rfl

/-- The record flags stand in different bits, so their byte is their sum (section 10.5). -/
theorem recordFlags_eq_add (j : Job) :
    recordFlags j = (if j.ending then 0x01 else 0x00) + (if j.stopping then 0x02 else 0x00)
      + (if j.replyHeld then 0x04 else 0x00) := by
  have flags : ∀ ending stopping held : Bool,
      flagBit 0x01 ending ||| flagBit 0x02 stopping ||| flagBit 0x04 held =
        (if ending then 0x01 else 0x00) + (if stopping then 0x02 else 0x00)
          + (if held then 0x04 else 0x00) := by decide
  exact flags j.ending j.stopping j.replyHeld

/-! ### FETCH (R49): its checks in the order length, tag, state, range -/

section
variable {s : State} {p : List Byte}

theorem State.fetchPayload_badLength (h : fieldAt p 4 2 = 0 ∨ 256 < fieldAt p 4 2) :
    s.fetchPayload p = [0x11, 0, 4] := by
  simp only [State.fetchPayload, if_pos h]
  decide

theorem State.fetchPayload_noSuchJob (h1 : 1 ≤ fieldAt p 4 2) (h256 : fieldAt p 4 2 ≤ 256)
    (h : ∀ i j, s.job? i = some j → j.tag ≠ tagAt p) : s.fetchPayload p = [0x30] := by
  have hlen : ¬(fieldAt p 4 2 = 0 ∨ 256 < fieldAt p 4 2) := by omega
  simp only [State.fetchPayload, if_neg hlen, State.findSlot_eq_none_iff.2 h]
  rfl

/-- Past the checks of length and tag, the job's state and then the range decide. -/
theorem State.fetchPayload_live {slot : Nat} {j : Job} (law : s.TableLaw)
    (h1 : 1 ≤ fieldAt p 4 2) (h256 : fieldAt p 4 2 ≤ 256)
    (hj : s.job? slot = some j) (ht : j.tag = tagAt p) :
    s.fetchPayload p =
      if j.state ≠ .done then [0x31]
      else if j.run.received < fieldAt p 2 2 + fieldAt p 4 2 then [0x11, 0, 2]
      else 0x00 :: (tagBytes (tagAt p) ++ bytesBE 2 (fieldAt p 2 2) ++ bytesBE 2 (fieldAt p 4 2) ++
        s.readArea j (fieldAt p 2 2) (fieldAt p 4 2)) := by
  have hlen : ¬(fieldAt p 4 2 = 0 ∨ 256 < fieldAt p 4 2) := by omega
  have hb : badField 2 = [0x11, 0, 2] := by decide
  simp only [State.fetchPayload, if_neg hlen, ← ht, law.findSlot hj, Option.bind_some, hj, hb,
    bne_iff_ne]
  rfl

end

/-! ### RELEASE (R26) -/

theorem releaseEffect_noSuchJob {s : State} {p : List Byte}
    (h : ∀ i j, s.job? i = some j → j.tag ≠ tagAt p) :
    releaseEffect p s = (s, 0x30 :: tagBytes (tagAt p)) := by
  simp only [releaseEffect, State.findSlot_eq_none_iff.2 h]
  rfl

/-- The effect on a live job, by its state. -/
theorem releaseEffect_live {s : State} {p : List Byte} {slot : Nat} {j : Job} (law : s.TableLaw)
    (hj : s.job? slot = some j) (ht : j.tag = tagAt p) :
    releaseEffect p s =
      if j.state = .done then (s.freeJob slot, 0x00 :: tagBytes (tagAt p))
      else (s, 0x31 :: tagBytes (tagAt p)) := by
  simp only [releaseEffect, ← ht, law.findSlot hj, hj, beq_iff_eq]
  rfl

/-- A slot that is not on a ready list leaves it as it stands. -/
theorem State.leaveReady_of_notMem {s : State} {p : PortId} {slot : Nat}
    (h : slot ∉ (s.port p).ready) : s.leaveReady p slot = s := by
  have e : (s.port p).ready.filter (fun x => x != slot) = (s.port p).ready :=
    List.filter_eq_self.2 fun x hx => by
      simpa using fun hs : x = slot => h (hs ▸ hx)
  simp only [State.leaveReady, e]
  exact State.setPort_port_self s p

/-- Freeing a job that holds no reservation and is on no ready list only empties its slot. -/
theorem State.freeJob_of_holdsNothing {s : State} {slot : Nat} {j : Job} (hj : s.job? slot = some j)
    (hs : j.standing = false) (hr : j.runRes = false)
    (hready : ∀ p, slot ∉ (s.port p).ready) : s.freeJob slot = s.clearSlot slot := by
  have hstand : s.giveBackStanding slot = s := by simp [State.giveBackStanding, hj, hs]
  have hrun : s.giveBackRun slot = s := by simp [State.giveBackRun, hj, hr]
  cases hp : j.port with
  | none => simp [State.freeJob, hj, hp, hstand, hrun]
  | some p => simp [State.freeJob, hj, hp, State.leaveReady_of_notMem (hready p), hstand, hrun]

/-- A DONE job holds no reservation and is on no ready list (R12, R15, R88), so freeing it only empties
its slot. -/
theorem State.DispatchLaw.freeJob_done {s : State} (law : s.DispatchLaw) {slot : Nat} {j : Job}
    (hj : s.job? slot = some j) (hd : j.state = .done) : s.freeJob slot = s.clearSlot slot := by
  obtain ⟨-, onList, -, -, lawful⟩ := law
  obtain ⟨standing, runRes, -, -⟩ := lawful slot j hj
  have hs : j.standing = false := by simpa [hd] using standing
  have hr : j.runRes = false := by simpa [hd] using runRes
  refine State.freeJob_of_holdsNothing hj hs hr fun p hmem => ?_
  obtain ⟨k, hk, ready, -⟩ := (onList p slot).1 hmem
  cases hj.symm.trans hk
  exact absurd (hd.symm.trans ready) (by decide)

/-- Emptying the hand moves neither jobs nor ports. -/
theorem State.DispatchLaw.emptyHand {s : State} (law : s.DispatchLaw) : s.emptyHand.DispatchLaw := by
  simpa only [State.DispatchLaw, State.emptyHand, State.port_setLink, State.job_setLink] using law

end Sys2Proof.Machine

open Sys2Proof Sys2Proof.Machine

/-- Settles O31: either request is answered with the payload its model function gives, and that
function is read off for the tag of no live job and for a live job. -/
theorem jobStatusAndFetchReadTheJob : Obligations.JobStatusAndFetchReadTheJob := by
  refine ⟨fun s r hr hl law => ⟨fun noJob => ?_, fun slot j hj ht => ?_⟩,
    fun s r hr hl law => ⟨fun bad => ?_, fun h1 h256 noJob => ?_, fun slot j h1 h256 hj ht => ?_⟩⟩
  · rw [exec_jobStatus_of_mayTake hr hl, State.statusPayload_noSuchJob noJob]
  · rw [exec_jobStatus_of_mayTake hr hl, State.statusPayload_live law hj ht, Job.statusBytes,
      recordFlags_eq_add, ht]
    cases hs : j.state with
    | pending => rfl
    | ready => rfl
    | active => rfl
    | done => cases j.run.outcome <;> rfl
  · rw [exec_fetch_of_mayCarryOut hr hl, State.fetchPayload_badLength bad]
  · rw [exec_fetch_of_mayCarryOut hr hl, State.fetchPayload_noSuchJob h1 h256 noJob]
  · rw [exec_fetch_of_mayCarryOut hr hl, State.fetchPayload_live law h1 h256 hj ht]
    refine ⟨fun notDone => ?_, fun done short => ?_, fun done inRange => ?_⟩
    · rw [if_pos notDone]
    · rw [if_neg (not_not.2 done), if_pos short]
    · rw [if_neg (not_not.2 done), if_neg (Nat.not_lt.2 inRange)]
      rfl

/-- Settles O32: the effect is read off for the tag of no live job and for a live job, and freeing a
DONE job only empties its slot, since it holds no reservation and is on no ready list. -/
theorem releaseFreesADoneJob : Obligations.ReleaseFreesADoneJob := by
  refine fun s r hr hl table dispatch => ⟨fun noJob => ?_, fun slot j hj ht =>
    ⟨fun notDone => ?_, fun done => ?_⟩⟩
  · rw [exec_release_of_mayCarryOut hr hl, replying_read _ s r (releaseEffect_noSuchJob noJob)]
  · have effect : releaseEffect r.payload s.emptyHand = _ := releaseEffect_live table hj ht
    rw [if_neg notDone] at effect
    rw [exec_release_of_mayCarryOut hr hl, replying_read _ s r effect]
  · have freed : s.emptyHand.freeJob slot = s.emptyHand.clearSlot slot :=
      dispatch.emptyHand.freeJob_done hj done
    have effect : releaseEffect r.payload s.emptyHand = _ := releaseEffect_live table hj ht
    rw [if_pos done, freed] at effect
    rw [exec_release_of_mayCarryOut hr hl, replying, effect]
    rfl
end

section
/-! SUPPORT. What a clear of a capture record leaves, and what CLEAR_CAPTURE answers (R80). -/

namespace Sys2Proof.Machine

/-- CLEAR_CAPTURE in hand, with no reply held, is carried out on the state with an empty hand. -/
theorem exec_clearCapture_of_mayCarryOut {s : State} {r : Request} (h : s.MayCarryOut .clearCapture r)
    (hl : r.payload.length = 2) :
    exec .clearCapture s = .next (replying clearCaptureEffect r s.emptyHand) := by
  have hz : Kind.clearCapture.sizeOk r.payload.length = true := by rw [hl]; rfl
  have quiet : s.Quiet := h.1.1
  show Host.Outcome.next (s.beforeEvent.serve .clearCapture openNever _) = _
  rw [quiet.beforeEvent, State.serve_carriesOut h hz]

/-- A clear as one update: the record is cleared, and an owed notice is dropped with its place on the
owed list. -/
theorem State.clearCapture_eq {s : State} {n : Nat} (hn : n < s.lines.length) :
    s.clearCapture n = { s with
      lines := s.lines.set n { s.line n with
        capture := Capture.cleared
        notice := if (s.line n).notice = .owed then .none else (s.line n).notice }
      reports := if (s.line n).notice = .owed then s.reports.dropOwed (.line n) else s.reports } := by
  by_cases owed : (s.line n).notice = .owed
  · simp only [State.clearCapture, State.setNotice, State.line_setReports,
      State.line_setLine_same s _ hn, owed, beq_self_eq_true, if_true]
    simp only [State.setLine, State.setReports, List.set_set]
  · have kept : ((s.line n).notice == .owed) = false := beq_false_of_ne owed
    simp [State.clearCapture, State.setLine, kept, owed]

theorem ReportQueue.dropOwed_eq (q : ReportQueue) (src : Source) :
    q.dropOwed src = { q with owed := q.owed.filter (· ≠ src) } := by
  have same : (fun x => x != src) = (fun x => decide (x ≠ src)) :=
    funext fun x => by simp [bne, beq_eq_decide]
  rw [ReportQueue.dropOwed, same]

/-! ### The effect by line and count -/

theorem State.line_emptyHand (s : State) (n : Nat) : s.emptyHand.line n = s.line n := rfl

section
variable {s : State} {n seen : Byte}

theorem clearCaptureEffect_badLine (h : 8 ≤ n.toNat) :
    clearCaptureEffect [n, seen] s = (s, [0x11, 0, 0]) :=
  if_pos h

/-- For a line there is, the count seen decides between a clear and STALE. -/
theorem clearCaptureEffect_line (h : n.toNat < 8) :
    clearCaptureEffect [n, seen] s =
      if seen.toNat = (s.line n.toNat).capture.count
      then (s.clearCapture n.toNat, [0x00, n, seen])
      else (s, [0x34, n, BitVec.ofNat 8 (s.line n.toNat).capture.count]) := by
  have hline : ¬Config.eventLines ≤ (byteAt [n, seen] 0).toNat := Nat.not_le.2 h
  simp only [clearCaptureEffect, if_neg hline, beq_iff_eq]
  rfl

end

end Sys2Proof.Machine

open Sys2Proof Sys2Proof.Machine

/-- Settles O20: the effect is read off for a line that is not there, for a count that matches and for
one that does not; only the match changes the state, by a clear. -/
theorem clearCaptureMatchesTheCount : Obligations.ClearCaptureMatchesTheCount := by
  intro s r n seen hr lines payload
  have run : exec .clearCapture s = .next (replying clearCaptureEffect r s.emptyHand) :=
    exec_clearCapture_of_mayCarryOut hr (by rw [payload]; rfl)
  refine ⟨fun above => ?_, fun below counted => ?_, fun below differs => ?_⟩
  · rw [run, replying_read _ s r (by rw [payload, clearCaptureEffect_badLine above])]
  · have hn : n.toNat < s.emptyHand.lines.length := lines.symm ▸ below
    have effect : clearCaptureEffect [n, seen] s.emptyHand = _ := clearCaptureEffect_line below
    rw [State.line_emptyHand, if_pos counted, State.clearCapture_eq hn,
      ReportQueue.dropOwed_eq] at effect
    rw [run, replying, payload, effect]
    rfl
  · have effect : clearCaptureEffect [n, seen] s.emptyHand = _ := clearCaptureEffect_line below
    rw [State.line_emptyHand, if_neg differs] at effect
    rw [run, replying_read _ s r (by rw [payload, effect])]
end

section
/-! SUPPORT. The ACTIVE job's tag of a port and the payload of a GET_PORT reply (R122). -/

namespace Sys2Proof.Machine

/-- GET_PORT in hand, with no reply held, is answered and changes nothing (R122). -/
theorem exec_getPort_of_mayCarryOut {s : State} {r : Request} (h : s.MayCarryOut .getPort r)
    (hl : r.payload.length = 1) :
    exec .getPort s = .next (s.replied r (s.portPayload r.payload)) := by
  have hz : Kind.getPort.sizeOk r.payload.length = true := by rw [hl]; rfl
  have quiet : s.Quiet := h.1.1
  show Host.Outcome.next (s.beforeEvent.serve .getPort openNever _) = _
  rw [quiet.beforeEvent, State.serve_carriesOut h hz]
  exact congrArg _ (replying_read _ s r rfl)

@[simp] theorem portOfCode_portCode (p : PortId) : portOfCode (portCode p) = some p := by
  cases p <;> decide

theorem portOfCode_eq_none {b : Byte} (ha : b ≠ 1) (hb : b ≠ 2) : portOfCode b = none := by
  rw [portOfCode, if_neg ha, if_neg hb]

theorem State.portPayload_noPort {s : State} {b : Byte} (ha : b ≠ 1) (hb : b ≠ 2) :
    s.portPayload [b] = [0x11, 0, 0] := by
  have code : portOfCode (byteAt [b] 0) = none := portOfCode_eq_none ha hb
  have bad : badField 0 = [0x11, 0, 0] := by decide
  simp only [State.portPayload, code, bad]

theorem State.portPayload_port (s : State) (p : PortId) :
    s.portPayload [portCode p] = 0x00 :: s.portBytes p := by
  have code : portOfCode (byteAt [portCode p] 0) = some p := portOfCode_portCode p
  simp only [State.portPayload, code]
  rfl

/-! ### The tag of the ACTIVE job, by the port's state -/

section
variable {s : State} {p : PortId}

theorem State.activeTag_running {run : Run} (h : (s.port p).state = .running run) :
    s.activeTag p = (s.job? run.slot).elim 0 Job.tag := by
  cases hj : s.job? run.slot with
  | none => simp only [State.activeTag, State.run?, h, hj, Option.elim_none]
  | some j => simp only [State.activeTag, State.run?, h, hj, Option.elim_some]

theorem State.activeTag_notRunning (h : ∀ run, (s.port p).state ≠ .running run) :
    s.activeTag p = 0 := by
  have noRun : s.run? p = none := by
    cases hx : (s.port p).state with
    | running run => exact absurd hx (h run)
    | _ => simp only [State.run?, hx]
  simp only [State.activeTag, noRun]

end

end Sys2Proof.Machine

open Sys2Proof Sys2Proof.Machine

/-- Settles O38: the payload is read off for a code of no port and for a port's code; there the port's
state decides the two shown states and the tag. -/
theorem getPortReadsThePort : Obligations.GetPortReadsThePort := by
  intro s r b hr payload
  have run : exec .getPort s = .next (s.replied r (s.portPayload [b])) := by
    rw [exec_getPort_of_mayCarryOut hr (by rw [payload]; rfl), payload]
  refine ⟨fun ha hb => ?_, fun p code => ?_⟩
  · rw [run, State.portPayload_noPort ha hb]
  · subst code
    rw [run, State.portPayload_port, State.portBytes]
    dsimp only
    cases hx : (s.port p).state with
    | running active =>
      rw [State.activeTag_running hx]
      dsimp only
      cases s.job? active.slot <;> rfl
    | recovering origin pulses =>
      rw [State.activeTag_notRunning (by simp [hx])]
      cases origin <;> rfl
    | _ => rw [State.activeTag_notRunning (by simp [hx])]; rfl
end

section
/-! SUPPORT. What a request that only reads leaves while a reply may be held, and the fields that PING
and GET_SUMMARY answer (R171, R172). -/

namespace Sys2Proof.Machine

/-- A request open to any content that only reads is answered and changes nothing; a held reply does
not stand in its way (R166). -/
theorem State.serve_openRead {s : State} {k : Kind} {r : Request} (f : State → List Byte)
    (h : s.MayTake k r) (hz : k.sizeOk r.payload.length = true) :
    s.beforeEvent.serve k openAlways (replying (fun _ u => (u, f u))) =
      s.replied r (f s.emptyHand) := by
  have quiet : s.Quiet := h.1
  rw [quiet.beforeEvent, State.serve_body h hz (fun _ => rfl)]
  exact replying_read _ s r rfl

theorem exec_ping_of_mayTake {s : State} {r : Request} (h : s.MayTake .ping r)
    (hp : r.payload = []) : exec .ping s = .next (s.replied r s.pingPayload) :=
  congrArg Host.Outcome.next (State.serve_openRead State.pingPayload h (by rw [hp]; rfl))

theorem exec_getSummary_of_mayTake {s : State} {r : Request} (h : s.MayTake .getSummary r)
    (hp : r.payload = []) : exec .getSummary s = .next (s.replied r s.summaryPayload) :=
  congrArg Host.Outcome.next (State.serve_openRead State.summaryPayload h (by rw [hp]; rfl))

/-! ### The fields of the two tables -/

/-- The rate code's byte is the two straps below six zero bits (R171). -/
theorem b1_rate (rate : BitVec 2) : b1 rate.toNat = rate.zeroExtend 8 :=
  BitVec.ofNat_toNat 8 rate

theorem State.freeSlots_eq_countP (s : State) : s.freeSlots = s.slots.countP Option.isNone :=
  List.countP_eq_length_filter.symm

/-- The held tag is that of a HELD slot, and 0 of any other (R171). -/
theorem HeldSlot.tag_eq (slot : HeldSlot) :
    slot.tag = match slot with | .held tag _ _ => tag | _ => 0 := by
  cases slot <;> rfl

/-- A reply is held while the slot is not EMPTY (R168). -/
theorem HeldSlot.boolCode_isHeld (slot : HeldSlot) :
    boolCode slot.isHeld = match slot with | .empty => 0 | _ => 1 := by
  cases slot <;> rfl

end Sys2Proof.Machine

open Sys2Proof Sys2Proof.Machine

/-- Settles O8: either request is answered with the payload of its model function, a held reply or not,
and the fields of that payload are those of the table. -/
theorem pingAndGetSummaryAnswerTheirTables : Obligations.PingAndGetSummaryAnswerTheirTables := by
  refine ⟨fun s r hr hp => ?_, fun s r hr hp => ?_⟩
  · rw [exec_ping_of_mayTake hr hp, State.pingPayload, b1_rate, HeldSlot.tag_eq]
    rfl
  · rw [exec_getSummary_of_mayTake hr hp, State.summaryPayload, State.freeSlots_eq_countP,
      HeldSlot.boolCode_isHeld]
    rfl
end


section
/-! SUPPORT. The operations of JobOps.lean on one job: what all of them leave as it stands, and what is
then left in the job's slot. -/

namespace Sys2Proof.Machine

/-! ### The link under a release of the held reply -/

/-- The law of the link, on the link alone (R167, R168, R170, R173). -/
def Link.Lawful (l : Link) : Prop :=
  l.tx.length ≤ 4 ∧ 1 ≤ l.holdLimit ∧ l.holdLimit ≤ 255 ∧
  (∀ w, l.slot = .waitingRoom w → l.tx.length = 4 ∨ l.resetPending = true) ∧
  (l.resetPending = true → l.inHand = none ∧
    ∃ ahead lseq, l.tx = ahead ++ [{ kind := 0x8F, lseq := lseq, payload := [0x00] }])

theorem State.linkLaw_iff (s : State) : s.LinkLaw ↔ s.link.Lawful := Iff.rfl

/-- From `l` to `l'` nothing has moved but a held reply, which has left the slot (R168). -/
structure Link.Released (l l' : Link) : Prop where
  lawful : l.Lawful → l'.Lawful
  idle : (∀ tag lseq n, l.slot ≠ .held tag lseq n) → l' = l

theorem Link.Released.refl (l : Link) : l.Released l := ⟨id, fun _ => rfl⟩

theorem Link.Released.trans {l l' l'' : Link} (h : l.Released l') (k : l'.Released l'') :
    l.Released l'' where
  lawful := fun x => k.lawful (h.lawful x)
  idle := fun x => by
    have e := h.idle x
    rw [k.idle (by rw [e]; exact x), e]

/-- Only the link moves when the held reply is released. -/
theorem State.releaseHeld_eq (s : State) (payload : List Byte) :
    s.releaseHeld payload = s.setLink (s.releaseHeld payload).link := by
  unfold State.releaseHeld
  split
  · dsimp only
    split <;> rfl
  · rfl
  · rfl

theorem State.releaseHeld_idle {s : State} (payload : List Byte)
    (h : ∀ tag lseq n, s.link.slot ≠ .held tag lseq n) : s.releaseHeld payload = s := by
  cases hs : s.link.slot with
  | held tag lseq n => exact absurd hs (h tag lseq n)
  | empty => simp only [State.releaseHeld, hs]
  | waitingRoom w => simp only [State.releaseHeld, hs]

theorem State.releaseHeld_released (s : State) (payload : List Byte) :
    s.link.Released (s.releaseHeld payload).link where
  idle h := by rw [State.releaseHeld_idle payload h]
  lawful law := by
    cases hs : s.link.slot with
    | held tag lseq n =>
      obtain ⟨room, low, high, -, reset⟩ := law
      rw [State.releaseHeld_held payload hs]
      split
      · rename_i c
        refine ⟨by simp; omega, low, high, nofun, fun h => absurd h (by simp [c.2])⟩
      · rename_i c
        refine ⟨room, low, high, fun _ _ => ?_, reset⟩
        show s.link.tx.length = 4 ∨ s.link.resetPending = true
        by_cases hr : s.link.resetPending = true
        · exact .inr hr
        · exact .inl (by simp only [Bool.not_eq_true] at hr; simp only [hr, and_true] at c; omega)
    | empty => rw [State.releaseHeld_idle payload (by simp [hs])]; exact law
    | waitingRoom w => rw [State.releaseHeld_idle payload (by simp [hs])]; exact law

/-- Once released, no reply is HELD. -/
theorem State.releaseHeld_notHeld (s : State) (payload : List Byte) :
    ∀ tag lseq n, (s.releaseHeld payload).link.slot ≠ .held tag lseq n := by
  intro tag lseq n
  cases hs : s.link.slot with
  | held => rw [State.releaseHeld_held payload hs]; split <;> simp
  | empty => rw [State.releaseHeld_idle payload (by simp [hs])]; simp [hs]
  | waitingRoom w => rw [State.releaseHeld_idle payload (by simp [hs])]; simp [hs]

/-! ### Operations that move jobs only -/

/-- From `s` to `t` only jobs, ready lists, reports, notice states and the held reply have moved. -/
structure State.JobsMoved (s t : State) : Prop where
  pending : t.pending = s.pending
  counter : t.counter = s.counter
  pool    : t.pool = s.pool
  time    : t.time = s.time
  timeSet : t.timeSet = s.timeSet
  tick    : t.tick = s.tick
  pins    : t.pins = s.pins
  link    : s.link.Released t.link
  count   : t.lines.length = s.lines.length
  lines   : ∀ n, ∃ x, t.line n = { s.line n with notice := x }
  ports   : ∀ p, ∃ l x, t.port p = { s.port p with ready := l, notice := x }

theorem State.JobsMoved.refl (s : State) : s.JobsMoved s where
  pending := rfl
  counter := rfl
  pool := rfl
  time := rfl
  timeSet := rfl
  tick := rfl
  pins := rfl
  link := Link.Released.refl _
  count := rfl
  lines := fun n => ⟨(s.line n).notice, rfl⟩
  ports := fun p => ⟨(s.port p).ready, (s.port p).notice, rfl⟩

theorem State.JobsMoved.trans {s t u : State} (h : s.JobsMoved t) (k : t.JobsMoved u) :
    s.JobsMoved u where
  pending := k.pending.trans h.pending
  counter := k.counter.trans h.counter
  pool := k.pool.trans h.pool
  time := k.time.trans h.time
  timeSet := k.timeSet.trans h.timeSet
  tick := k.tick.trans h.tick
  pins := k.pins.trans h.pins
  link := h.link.trans k.link
  count := k.count.trans h.count
  lines := fun n => by
    obtain ⟨x, hx⟩ := h.lines n
    obtain ⟨y, hy⟩ := k.lines n
    exact ⟨y, by rw [hy, hx]⟩
  ports := fun p => by
    obtain ⟨l, x, hx⟩ := h.ports p
    obtain ⟨m, y, hy⟩ := k.ports p
    exact ⟨m, y, by rw [hy, hx]⟩

theorem State.NoticesMoved.jobsMoved {s t : State} (h : s.NoticesMoved t) : s.JobsMoved t where
  pending := h.pending
  counter := h.counter
  pool := h.pool
  time := h.time
  timeSet := h.timeSet
  tick := h.tick
  pins := h.pins
  link := by rw [h.link]; exact Link.Released.refl _
  count := h.count
  lines := h.lines
  ports := fun p => by
    obtain ⟨x, hx⟩ := h.ports p
    exact ⟨(s.port p).ready, x, hx⟩

theorem State.JobsMoved.portState {s t : State} (h : s.JobsMoved t) (p : PortId) :
    (t.port p).state = (s.port p).state := by
  obtain ⟨l, x, hx⟩ := h.ports p
  rw [hx]

theorem State.JobsMoved.settings {s t : State} (h : s.JobsMoved t) (p : PortId) :
    (t.port p).settings = (s.port p).settings := by
  obtain ⟨l, x, hx⟩ := h.ports p
  rw [hx]

theorem State.setSlots_jobsMoved (s : State) (l : List (Option Job)) :
    s.JobsMoved { s with slots := l } :=
  { State.JobsMoved.refl s with
    lines := fun n => ⟨(s.line n).notice, rfl⟩
    ports := fun p => ⟨(s.port p).ready, (s.port p).notice, by cases p <;> rfl⟩ }

theorem State.setJob_jobsMoved (s : State) (slot : Nat) (j : Job) : s.JobsMoved (s.setJob slot j) :=
  s.setSlots_jobsMoved _

theorem State.clearSlot_jobsMoved (s : State) (slot : Nat) : s.JobsMoved (s.clearSlot slot) :=
  s.setSlots_jobsMoved _

theorem State.modifyJob_jobsMoved (s : State) (slot : Nat) (f : Job → Job) :
    s.JobsMoved (s.modifyJob slot f) := by
  unfold State.modifyJob
  split
  · exact s.setJob_jobsMoved slot _
  · exact State.JobsMoved.refl s

theorem State.setReports_jobsMoved (s : State) (q : ReportQueue) : s.JobsMoved (s.setReports q) :=
  { State.JobsMoved.refl s with
    lines := fun n => ⟨(s.line n).notice, rfl⟩
    ports := fun p => ⟨(s.port p).ready, (s.port p).notice, by simp⟩ }

theorem State.setReady_jobsMoved (s : State) (p : PortId) (l : List Nat) :
    s.JobsMoved (s.setPort p { s.port p with ready := l }) where
  pending := by simp
  counter := by simp
  pool := by simp
  time := by simp
  timeSet := by simp
  tick := by simp
  pins := by simp
  link := by simp only [State.setPort_link]; exact Link.Released.refl _
  count := by simp
  lines := fun n => ⟨(s.line n).notice, by simp⟩
  ports := fun q => by
    by_cases h : q = p
    · subst h
      exact ⟨l, (s.port q).notice, by simp⟩
    · exact ⟨(s.port q).ready, (s.port q).notice, State.setPort_port_other s _ h⟩

theorem State.releaseHeld_jobsMoved (s : State) (payload : List Byte) :
    s.JobsMoved (s.releaseHeld payload) := by
  have link := s.releaseHeld_released payload
  rw [State.releaseHeld_eq s payload]
  exact { State.JobsMoved.refl s with
    link := link
    lines := fun n => ⟨(s.line n).notice, rfl⟩
    ports := fun p => ⟨(s.port p).ready, (s.port p).notice, by simp⟩ }

/-! ### The parts of a job's end -/

theorem State.job_releaseHeld (s : State) (payload : List Byte) (i : Nat) :
    (s.releaseHeld payload).job? i = s.job? i := by
  rw [State.releaseHeld_eq s payload]; simp

theorem State.port_releaseHeld (s : State) (payload : List Byte) (p : PortId) :
    (s.releaseHeld payload).port p = s.port p := by
  rw [State.releaseHeld_eq s payload]; simp

theorem State.reports_releaseHeld (s : State) (payload : List Byte) :
    (s.releaseHeld payload).reports = s.reports := by
  rw [State.releaseHeld_eq s payload]; simp

theorem State.slots_releaseHeld (s : State) (payload : List Byte) :
    (s.releaseHeld payload).slots = s.slots := by
  rw [State.releaseHeld_eq s payload]; simp

theorem State.modifyJob_of {s : State} {slot : Nat} {j : Job} (f : Job → Job)
    (hj : s.job? slot = some j) : s.modifyJob slot f = s.setJob slot (f j) := by
  simp only [State.modifyJob, hj]

theorem State.modifyJob_none {s : State} {slot : Nat} (f : Job → Job)
    (hj : s.job? slot = none) : s.modifyJob slot f = s := by
  simp only [State.modifyJob, hj]

theorem State.modifyRecord_of {s : State} {slot : Nat} {j : Job} (f : RunRecord → RunRecord)
    (hj : s.job? slot = some j) :
    s.modifyRecord slot f = s.setJob slot { j with run := f j.run } :=
  State.modifyJob_of _ hj

/-- A held reply sent: only the link moves, and the job's reply is no longer held. -/
theorem State.sendHeld_of {s : State} {slot : Nat} {j : Job} (r : JobReport)
    (hj : s.job? slot = some j) :
    s.sendHeld slot r = (s.releaseHeld (heldPayload r)).setJob slot { j with replyHeld := false } :=
  State.modifyJob_of _ (by rw [State.job_releaseHeld, hj])

/-- What the report of a job leaves it: its run reservation is spent, or without one its standing
reservation (R151). -/
def Job.reported (j : Job) : Job := { j with standing := j.standing && j.runRes, runRes := false }

/-- A job report is queued through a reservation (R151). -/
theorem State.queueJobReport_of {s : State} {slot : Nat} {j : Job} (r : JobReport)
    (hj : s.job? slot = some j) :
    s.queueJobReport slot r =
      if j.runRes || j.standing then (s.setJob slot j.reported).consume r else s := by
  simp only [State.queueJobReport, hj, Job.reported]
  cases hr : j.runRes <;> cases hs : j.standing <;> simp

theorem State.queueJobReport_jobsMoved (s : State) (slot : Nat) (r : JobReport) :
    s.JobsMoved (s.queueJobReport slot r) := by
  cases hj : s.job? slot with
  | none => simp only [State.queueJobReport, hj]; exact State.JobsMoved.refl s
  | some j =>
    rw [State.queueJobReport_of r hj]
    split
    · exact (s.setJob_jobsMoved slot _).trans (State.setReports_jobsMoved _ _)
    · exact State.JobsMoved.refl s

theorem State.queueJobReport_slots {s : State} {slot : Nat} {j : Job} (r : JobReport)
    (hj : s.job? slot = some j) :
    (s.queueJobReport slot r).slots = s.slots.set slot (some j.reported) := by
  rw [State.queueJobReport_of r hj]
  split
  · rfl
  · rename_i c
    have e : j.reported = j := by
      simp only [Bool.or_eq_true, not_or, Bool.not_eq_true] at c
      obtain ⟨hr, hs⟩ := c
      cases j
      simp only [Job.reported] at hr hs ⊢
      simp [hr, hs]
    rw [e]
    exact (congrArg State.slots (State.setJob_self hj)).symm

theorem State.queueJobReport_port (s : State) (slot : Nat) (r : JobReport) (p : PortId) :
    (s.queueJobReport slot r).port p = s.port p := by
  cases hj : s.job? slot with
  | none => simp only [State.queueJobReport, hj]
  | some j =>
    rw [State.queueJobReport_of r hj]
    split
    · simp [State.consume]
    · rfl

theorem State.queueJobReport_link (s : State) (slot : Nat) (r : JobReport) :
    (s.queueJobReport slot r).link = s.link := by
  cases hj : s.job? slot with
  | none => simp only [State.queueJobReport, hj]
  | some j =>
    rw [State.queueJobReport_of r hj]
    split <;> rfl

theorem State.job_of_set {s t : State} {slot : Nat} {o : Option Job}
    (h : t.slots = s.slots.set slot o) (hl : slot < s.slots.length) (i : Nat) :
    t.job? i = if i = slot then o else s.job? i := by
  simp only [State.job?, h, List.getD_eq_getElem?_getD]
  by_cases hi : i = slot
  · subst hi; simp [hl]
  · simp [hi, List.getElem?_set_ne (Ne.symm hi)]

/-- A job is off the ready list of its port, if it has one (R91). -/
def State.offList (s : State) (slot : Nat) (j : Job) : State :=
  match j.port with
  | some p => s.leaveReady p slot
  | none => s

theorem State.freeJob_of {s : State} {slot : Nat} {j : Job} (hj : s.job? slot = some j) :
    s.freeJob slot = (((s.offList slot j).giveBackStanding slot).giveBackRun slot).clearSlot slot := by
  simp only [State.freeJob, hj]
  rfl

theorem State.job_offList (s : State) (slot : Nat) (j : Job) (i : Nat) :
    (s.offList slot j).job? i = s.job? i := by
  unfold State.offList
  split
  · exact State.job_setPort s _ _ i
  · rfl

/-! ### What is left in the slot of a job that ends -/

/-- From `s` to `t` the job `j` in `slot` has ended what it was doing and `o` is left in its slot: where
that is nothing, the job has left the ready list of its port, and no other job and no other entry of a
ready list has moved. -/
structure State.Leaves (s : State) (slot : Nat) (j : Job) (o : Option Job) (t : State) : Prop where
  moved : s.JobsMoved t
  slots : t.slots = s.slots.set slot o
  ready : ∀ p, (t.port p).ready =
    if o = none ∧ j.port = some p then (s.port p).ready.filter (· ≠ slot) else (s.port p).ready

/-- Freeing a job, whatever reservations it holds. -/
theorem State.freeJob_leaves {s : State} {slot : Nat} {j : Job} (hj : s.job? slot = some j) :
    s.Leaves slot j none (s.freeJob slot) := by
  have h := State.freeJob_moved hj
  refine ⟨State.JobsMoved.trans ?_ h.jobsMoved, ?_, fun p => ?_⟩
  · unfold State.without
    cases hp : j.port with
    | none => exact (s.setReports_jobsMoved _).trans (State.clearSlot_jobsMoved _ slot)
    | some p =>
      exact ((s.setReady_jobsMoved p _).trans (State.setReports_jobsMoved _ _)).trans
        (State.clearSlot_jobsMoved _ slot)
  · rw [h.slots]
    cases hp : j.port <;> simp [State.without, hp, State.leaveReady]
  · have e : (s.port p).ready.filter (fun x => x != slot) = (s.port p).ready.filter (· ≠ slot) := by
      congr 1
      funext x
      simp [bne, beq_eq_decide]
    rw [h.ready]
    cases hp : j.port with
    | none => simp [State.without, hp]
    | some q =>
      by_cases hq : q = p
      · subst hq
        simp [State.without, hp, State.leaveReady, e]
      · simp [State.without, hp, State.leaveReady, hq, State.setPort_port_other s _ (Ne.symm hq)]

/-- A job that ends, whatever has been written to its record before. -/
theorem State.Leaves.after {s u t : State} {slot : Nat} {j k : Job} {o : Option Job}
    (h : s.JobsMoved u) (slots : u.slots = s.slots.set slot (some k))
    (ready : ∀ p, (u.port p).ready = (s.port p).ready) (port : k.port = j.port)
    (ends : u.Leaves slot k o t) : s.Leaves slot j o t where
  moved := h.trans ends.moved
  slots := by rw [ends.slots, slots, List.set_set]
  ready := fun p => by rw [ends.ready p, ready p, port]

theorem State.cancelWaiting_leaves {s : State} {slot : Nat} {j : Job} (hj : s.job? slot = some j) :
    s.Leaves slot j none (s.cancelWaiting slot) := by
  have hl := State.job_lt hj
  simp only [State.cancelWaiting, hj]
  split
  · rw [State.sendHeld_of _ hj]
    have hk : ((s.releaseHeld (heldPayload (s.endReport j .cancelled))).setJob slot
        { j with replyHeld := false }).job? slot = some { j with replyHeld := false } :=
      State.job_setJob_same _ _ (by rw [State.slots_releaseHeld]; exact hl)
    refine State.Leaves.after (k := { j with replyHeld := false }) ((s.releaseHeld_jobsMoved _).trans (State.setJob_jobsMoved _ _ _)) ?_
      (fun p => ?_) rfl (State.freeJob_leaves hk)
    · simp [State.slots_releaseHeld]
    · simp [State.port_releaseHeld]
  · exact State.freeJob_leaves hj

theorem Job.reported_port (j : Job) : j.reported.port = j.port := rfl

theorem State.endWithoutRun_leaves {s : State} {slot : Nat} {j : Job} (o : JobOutcome)
    (hj : s.job? slot = some j) : s.Leaves slot j none (s.endWithoutRun slot o) := by
  have hl := State.job_lt hj
  simp only [State.endWithoutRun, hj]
  split
  · rw [State.sendHeld_of _ hj]
    have hk : ((s.releaseHeld (heldPayload (s.endReport j o))).setJob slot
        { j with replyHeld := false }).job? slot = some { j with replyHeld := false } :=
      State.job_setJob_same _ _ (by rw [State.slots_releaseHeld]; exact hl)
    refine State.Leaves.after (k := { j with replyHeld := false }) ((s.releaseHeld_jobsMoved _).trans (State.setJob_jobsMoved _ _ _)) ?_
      (fun p => ?_) rfl (State.freeJob_leaves hk)
    · simp [State.slots_releaseHeld]
    · simp [State.port_releaseHeld]
  · have slots := State.queueJobReport_slots (s.endReport j o) hj
    have hk : (s.queueJobReport slot (s.endReport j o)).job? slot = some j.reported := by
      rw [State.job_of_set slots hl, if_pos rfl]
    exact State.Leaves.after (s.queueJobReport_jobsMoved slot _) slots
      (fun p => by rw [State.queueJobReport_port]) j.reported_port (State.freeJob_leaves hk)

/-! ### The end of a run -/

/-- What the table's law and the held reply's say of a job does not tell `j` from `k`. -/
structure Job.SameBody (j k : Job) : Prop where
  tag       : k.tag = j.tag
  blocks    : k.blocks = j.blocks
  writeLen  : k.writeLen = j.writeLen
  readTotal : k.readTotal = j.readTotal
  port      : k.port = j.port
  trigger   : k.trigger = j.trigger

theorem Job.SameBody.recurring {j k : Job} (h : j.SameBody k) : k.recurring = j.recurring := by
  simp only [Job.recurring, h.trigger]

theorem Job.SameBody.long {j k : Job} (h : j.SameBody k) : k.long = j.long := by
  simp only [Job.long, h.readTotal]

/-- What is left of a job that the table keeps at the end of its run: a recurring one is PENDING again, a
long single-shot one DONE (R19 to R21). -/
structure Job.RunClosed (j k : Job) : Prop where
  body   : j.SameBody k
  state  : (k.state = .pending ∧ j.recurring = true) ∨
    (k.state = .done ∧ j.recurring = false ∧ j.long = true)
  fields : k.state = .pending → k.ending = false ∧ k.stopping = false
  res    : j.standing = true → (j.runRes = true ↔ j.recurring = true) →
    (k.standing = true ↔ k.state ≠ .done) ∧ k.runRes = false
  queue  : k.state = .pending → k.runRes = false
  held   : j.replyHeld = false ∨ j.recurring = false → k.replyHeld = false

/-- The record with which the table meets the end of a run (R18). -/
def Job.raised (j : Job) : Job := { j with runsDone := min (j.runsDone + 1) 65535 }

/-- The record that then stands in the job's slot, its missed runs reported (R18). -/
def Job.runCounted (j : Job) : Job := { j.raised with missed := 0 }

/-- A recurring job whose report is queued goes back to PENDING (R21). -/
def Job.toPending (j : Job) : Job := { j with state := .pending, ending := false, stopping := false }

/-- The job that a recurring run leaves PENDING (R21). -/
def Job.again (j : Job) : Job := j.runCounted.reported.toPending

/-- The end of a run, written with the records it passes through. -/
theorem State.tableRunEnd_of {s : State} {slot : Nat} {j : Job} (hj : s.job? slot = some j) :
    s.tableRunEnd slot =
      if j.raised.recurring then
        let ends := j.raised.endsAt s.comparedTime
        let u := (s.setJob slot j.runCounted).queueJobReport slot (s.runReport j.raised ends)
        if ends then u.freeJob slot else u.modifyJob slot Job.toPending
      else if j.replyHeld then
        (((s.setJob slot j.runCounted).sendHeld slot (s.runReport j.raised true)).giveBackStanding
          slot).closeSingle slot j.long
      else ((s.setJob slot j.runCounted).queueJobReport slot
        (s.runReport j.raised true)).closeSingle slot j.long := by
  unfold State.tableRunEnd
  rw [hj]
  rfl

/-- The records of a run's end differ from the job in nothing that its body holds. -/
theorem Job.runCounted_body (j : Job) : j.SameBody j.runCounted := by
  constructor <;> simp only [Job.runCounted, Job.raised]

theorem Job.reported_body (j : Job) : j.SameBody j.reported := by
  constructor <;> simp only [Job.reported]

theorem Job.SameBody.trans {j k l : Job} (h : j.SameBody k) (h' : k.SameBody l) : j.SameBody l :=
  ⟨h'.tag.trans h.tag, h'.blocks.trans h.blocks, h'.writeLen.trans h.writeLen,
    h'.readTotal.trans h.readTotal, h'.port.trans h.port, h'.trigger.trans h.trigger⟩

theorem Job.again_body (j : Job) : j.SameBody j.again := by
  have b := j.runCounted_body.trans j.runCounted.reported_body
  exact ⟨b.tag, b.blocks, b.writeLen, b.readTotal, b.port, b.trigger⟩

theorem Job.again_closed {j : Job} (h : j.recurring = true) : j.RunClosed j.again where
  body := j.again_body
  state := .inl ⟨rfl, h⟩
  fields _ := ⟨rfl, rfl⟩
  res standing runRes := by
    have hr : j.runRes = true := runRes.2 h
    simp [Job.again, Job.toPending, Job.reported, Job.runCounted, Job.raised, hr, standing]
  queue _ := rfl
  held c := by
    have hh : j.replyHeld = false := by simpa [h] using c
    exact hh

/-- The end of the run of a recurring job: its report is queued, and it is freed or PENDING again. -/
theorem State.tableRunEnd_recurring {s : State} {slot : Nat} {j : Job} (hj : s.job? slot = some j)
    (h : j.recurring = true) : s.tableRunEnd slot =
      let ends := j.raised.endsAt s.comparedTime
      let u := (s.setJob slot j.runCounted).queueJobReport slot (s.runReport j.raised ends)
      if ends = true then u.freeJob slot else u.setJob slot j.again := by
  have hl := State.job_lt hj
  have hr : j.raised.recurring = true := h
  have hk : (s.setJob slot j.runCounted).job? slot = some j.runCounted :=
    State.job_setJob_same _ _ hl
  have again (r : JobReport) :
      ((s.setJob slot j.runCounted).queueJobReport slot r).modifyJob slot Job.toPending
        = ((s.setJob slot j.runCounted).queueJobReport slot r).setJob slot j.again :=
    State.modifyJob_of _ (by
      rw [State.job_of_set (State.queueJobReport_slots _ hk) (by simpa using hl), if_pos rfl])
  rw [State.tableRunEnd_of hj, if_pos hr]
  simp only [again]

/-- A single-shot job after its final report has left: freed, or DONE where it is long. -/
theorem State.closeSingle_of {s : State} {slot : Nat} {j : Job} (long : Bool)
    (hj : s.job? slot = some j) : s.closeSingle slot long =
      if long then s.setJob slot { j with state := .done } else s.freeJob slot := by
  simp only [State.closeSingle, State.modifyJob_of _ hj]

/-- The end of the run of a single-shot job: its report is sent or queued, and it is closed. -/
theorem State.tableRunEnd_single {s : State} {slot : Nat} {j : Job} (hj : s.job? slot = some j)
    (h : j.recurring = false) : s.tableRunEnd slot =
      if j.replyHeld then
        (((s.setJob slot j.runCounted).sendHeld slot (s.runReport j.raised true)).giveBackStanding
          slot).closeSingle slot j.long
      else ((s.setJob slot j.runCounted).queueJobReport slot
        (s.runReport j.raised true)).closeSingle slot j.long := by
  have hr : j.raised.recurring = false := h
  rw [State.tableRunEnd_of hj, hr]
  rfl

/-- A job that is freed, or whose record is replaced, after operations that have moved jobs only. -/
theorem State.Leaves.keep {s u : State} {slot : Nat} {j k k' : Job} (h : s.JobsMoved u)
    (slots : u.slots = s.slots.set slot (some k)) (ready : ∀ p, (u.port p).ready = (s.port p).ready) :
    s.Leaves slot j (some k') (u.setJob slot k') where
  moved := h.trans (State.setJob_jobsMoved _ _ _)
  slots := by simp [slots]
  ready := fun p => by simp [ready p]

theorem State.giveBackStanding_facts {s : State} {slot : Nat} {j : Job} (hj : s.job? slot = some j) :
    s.JobsMoved (s.giveBackStanding slot) ∧
    (s.giveBackStanding slot).slots = s.slots.set slot (some { j with standing := false }) ∧
    (∀ p, ((s.giveBackStanding slot).port p).ready = (s.port p).ready) ∧
    (s.giveBackStanding slot).link = s.link := by
  have h := State.giveBackStanding_moved hj
  refine ⟨((State.setJob_jobsMoved _ _ _).trans (State.setReports_jobsMoved _ _)).trans h.jobsMoved,
    h.slots, fun p => ?_, h.link⟩
  rw [h.ready]
  simp

theorem Job.done_closed {j k : Job} (body : j.SameBody k) (single : j.recurring = false)
    (long : j.long = true) (state : k.state = .done) (held : k.replyHeld = false)
    (standing : j.standing = true → j.runRes = false → k.standing = false ∧ k.runRes = false) :
    j.RunClosed k where
  body := body
  state := .inr ⟨state, single, long⟩
  fields h := by rw [state] at h; cases h
  res hs hr := by
    have hr' : j.runRes = false := by simpa [single] using hr
    obtain ⟨a, b⟩ := standing hs hr'
    simp [a, b, state]
  queue h := by rw [state] at h; cases h
  held _ := held

/-- The end of the run of a recurring job: it is freed, or PENDING again. -/
theorem State.tableRunEnd_leaves_recurring {s : State} {slot : Nat} {j : Job}
    (hj : s.job? slot = some j) (hr : j.recurring = true) :
    ∃ o, s.Leaves slot j o (s.tableRunEnd slot) ∧ ∀ k, o = some k → j.RunClosed k := by
  have hl := State.job_lt hj
  have hk : (s.setJob slot j.runCounted).job? slot = some j.runCounted :=
    State.job_setJob_same _ _ hl
  rw [State.tableRunEnd_recurring hj hr]
  dsimp only
  generalize s.runReport j.raised (j.raised.endsAt s.comparedTime) = r
  have m := (s.setJob_jobsMoved slot j.runCounted).trans (State.queueJobReport_jobsMoved _ slot r)
  have slots := State.queueJobReport_slots r hk
  have ready p : (((s.setJob slot j.runCounted).queueJobReport slot r).port p).ready
      = (s.port p).ready := by rw [State.queueJobReport_port]; simp
  have hq : ((s.setJob slot j.runCounted).queueJobReport slot r).job? slot
      = some j.runCounted.reported := by
    rw [State.job_of_set slots (by simpa using hl), if_pos rfl]
  rw [State.setJob_slots, List.set_set] at slots
  generalize (s.setJob slot j.runCounted).queueJobReport slot r = u at *
  have port := (j.runCounted_body.trans j.runCounted.reported_body).port
  split
  · exact ⟨none, State.Leaves.after m slots ready port (State.freeJob_leaves hq), by simp⟩
  · refine ⟨some j.again, State.Leaves.keep m slots ready, fun k h => ?_⟩
    rw [← Option.some.inj h]
    exact Job.again_closed hr

/-- A single-shot job whose final report has left: it is freed, or DONE where it is long. -/
theorem State.closeSingle_leaves {s u : State} {slot : Nat} {j k : Job} (hl : slot < s.slots.length)
    (hr : j.recurring = false) (m : s.JobsMoved u) (slots : u.slots = s.slots.set slot (some k))
    (ready : ∀ p, (u.port p).ready = (s.port p).ready) (body : j.SameBody k)
    (held : k.replyHeld = false)
    (res : j.standing = true → j.runRes = false → k.standing = false ∧ k.runRes = false) :
    ∃ o, s.Leaves slot j o (u.closeSingle slot j.long) ∧ ∀ k, o = some k → j.RunClosed k := by
  have hu : u.job? slot = some k := by rw [State.job_of_set slots hl, if_pos rfl]
  rw [State.closeSingle_of _ hu]
  split
  · rename_i long
    refine ⟨_, State.Leaves.keep m slots ready, fun k' h => ?_⟩
    rw [← Option.some.inj h]
    exact Job.done_closed ⟨body.tag, body.blocks, body.writeLen, body.readTotal, body.port,
      body.trigger⟩ hr long rfl held res
  · exact ⟨none, State.Leaves.after m slots ready body.port (State.freeJob_leaves hu), by simp⟩

theorem State.tableRunEnd_leaves_single {s : State} {slot : Nat} {j : Job}
    (hj : s.job? slot = some j) (hr : j.recurring = false) :
    ∃ o, s.Leaves slot j o (s.tableRunEnd slot) ∧ ∀ k, o = some k → j.RunClosed k := by
  have hl := State.job_lt hj
  have hk : (s.setJob slot j.runCounted).job? slot = some j.runCounted :=
    State.job_setJob_same _ _ hl
  have moved := s.setJob_jobsMoved slot j.runCounted
  have b := j.runCounted_body
  rw [State.tableRunEnd_single hj hr]
  generalize s.runReport j.raised true = r
  split
  · rw [State.sendHeld_of r hk]
    have hs : (((s.setJob slot j.runCounted).releaseHeld (heldPayload r)).setJob slot
        { j.runCounted with replyHeld := false }).job? slot
          = some { j.runCounted with replyHeld := false } :=
      State.job_setJob_same _ _ (by rw [State.slots_releaseHeld]; simpa using hl)
    obtain ⟨m, slots, ready, -⟩ := State.giveBackStanding_facts hs
    refine State.closeSingle_leaves (k := { j.runCounted with replyHeld := false, standing := false })
      hl hr (((moved.trans (State.releaseHeld_jobsMoved _ _)).trans
        (State.setJob_jobsMoved _ _ _)).trans m) ?_ (fun p => ?_)
      ⟨b.tag, b.blocks, b.writeLen, b.readTotal, b.port, b.trigger⟩ rfl (fun _ h => ⟨rfl, h⟩)
    · rw [slots]
      simp [State.slots_releaseHeld]
    · rw [ready]
      simp [State.port_releaseHeld]
  · rename_i notHeld
    have slots := State.queueJobReport_slots r hk
    rw [State.setJob_slots, List.set_set] at slots
    exact State.closeSingle_leaves hl hr (moved.trans (State.queueJobReport_jobsMoved _ slot r)) slots
      (fun p => by rw [State.queueJobReport_port]; simp) (b.trans j.runCounted.reported_body)
      (by simpa [Job.reported, Job.runCounted, Job.raised] using notHeld)
      (fun hs h => by simp [Job.reported, Job.runCounted, Job.raised, hs, h])

/-- The end of a run, whatever the job: it is freed, or `RunClosed` says what is left of it. -/
theorem State.tableRunEnd_leaves {s : State} {slot : Nat} {j : Job} (hj : s.job? slot = some j) :
    ∃ o, s.Leaves slot j o (s.tableRunEnd slot) ∧ ∀ k, o = some k → j.RunClosed k := by
  cases hr : j.recurring with
  | true => exact State.tableRunEnd_leaves_recurring hj hr
  | false => exact State.tableRunEnd_leaves_single hj hr

end Sys2Proof.Machine
end


section
/-! SUPPORT. The law of the notices under the shared operations (R83, R120, R153): the owed list and the
queue that the notice states agree with are carried as lists of their own, so that the drain and a removal
can be followed report by report. -/

namespace Sys2Proof.Machine

/-- The notice states of `s` agree with an owed list and a queue: at most one notice of a source is owed
or queued (R83, R120, R153). -/
structure State.NoticesAgree (owed : List Source) (queued : List Report) (s : State) : Prop where
  lines  : s.lines.length = 8
  nodup  : owed.Nodup
  owing  : ∀ src ∈ owed, src.Exists
  source : ∀ r ∈ queued, ∀ src, r.source = some src → src.Exists
  agree  : ∀ src : Source, src.Exists → (src ∈ owed ↔ s.noticeState src = .owed) ∧
    (queued.filter (fun r => r.source == some src)).length =
      if s.noticeState src = .queued then 1 else 0

theorem State.noticeLaw_iff (s : State) :
    s.NoticeLaw ↔ s.NoticesAgree s.reports.owed s.reports.queued :=
  ⟨fun ⟨a, b, c, d, e⟩ => ⟨a, b, c, d, e⟩, fun ⟨a, b, c, d, e⟩ => ⟨a, b, c, d, e⟩⟩

/-- The agreement reads of a state the notice states alone. -/
theorem State.NoticesAgree.congr {owed : List Source} {queued : List Report} {s t : State}
    (h : s.NoticesAgree owed queued) (hl : t.lines.length = s.lines.length)
    (hn : ∀ src, t.noticeState src = s.noticeState src) : t.NoticesAgree owed queued where
  lines := hl.trans h.lines
  nodup := h.nodup
  owing := h.owing
  source := h.source
  agree src he := by rw [hn src]; exact h.agree src he

/-- A report that is no notice makes no difference. -/
theorem State.NoticesAgree.pushJob {owed : List Source} {queued : List Report} {s : State}
    (h : s.NoticesAgree owed queued) (r : JobReport) : s.NoticesAgree owed (queued ++ [.job r]) where
  lines := h.lines
  nodup := h.nodup
  owing := h.owing
  source x hx src hs := by
    rcases List.mem_append.1 hx with hx | hx
    · exact h.source x hx src hs
    · rw [List.mem_singleton.1 hx] at hs; cases hs
  agree src he := by
    have : ((Report.job r).source == some src) = false := rfl
    rw [List.filter_append, List.filter_cons_of_neg (by simp [this])]
    simpa using h.agree src he

/-! ### Notice states under an update -/

theorem State.noticeState_setNotice {s : State} {src : Source} (x : NoticeState)
    (hl : s.lines.length = 8) (he : src.Exists) (other : Source) :
    (s.setNotice src x).noticeState other = if other = src then x else s.noticeState other := by
  cases src with
  | line n =>
    cases other with
    | line m =>
      by_cases h : m = n
      · subst h
        have : m < s.lines.length := by rw [hl]; exact he
        simp [State.setNotice, State.noticeState, State.line_setLine_same s _ this]
      · simp [State.setNotice, State.noticeState, State.line_setLine_other s _ h, h]
    | port q => simp [State.setNotice, State.noticeState]
  | port p =>
    cases other with
    | line m => simp [State.setNotice, State.noticeState]
    | port q =>
      by_cases h : q = p
      · subst h; simp [State.setNotice, State.noticeState]
      · simp [State.setNotice, State.noticeState, State.setPort_port_other s _ h, h]

theorem State.lines_setNotice (s : State) (src : Source) (x : NoticeState) :
    (s.setNotice src x).lines.length = s.lines.length := (State.setNotice_moved s src x).count

/-- A line that does not exist has the settings and the notice state of a reset. -/
theorem State.line_of_le {s : State} {n : Nat} (h : s.lines.length ≤ n) : s.line n = Line.reset := by
  simp [State.line, List.getD_eq_getElem?_getD, List.getElem?_eq_none h]

/-- A source that does not exist gets no notice state and asks for nothing. -/
theorem State.setNotice_absent {s : State} {src : Source} (x : NoticeState)
    (hl : s.lines.length = 8) (he : ¬src.Exists) : s.setNotice src x = s := by
  cases src with
  | line n =>
    have : s.lines.length ≤ n := by rw [hl]; exact Nat.le_of_not_lt he
    simp [State.setNotice, State.setLine, List.set_eq_of_length_le this]
  | port p => exact absurd trivial he

theorem State.askNotice_absent {s : State} {src : Source} (hl : s.lines.length = 8)
    (he : ¬src.Exists) : s.askNotice src = s := by
  cases src with
  | line n =>
    have hn : s.lines.length ≤ n := by rw [hl]; exact Nat.le_of_not_lt he
    have : s.noticeEnabled (.line n) = false := by
      simp only [State.noticeEnabled, State.line_of_le hn]; rfl
    simp [State.askNotice, this]
  | port p => exact absurd trivial he

/-! ### A notice queued, owed or delivered -/

/-- The notice of a source that has none queued is queued. -/
theorem State.NoticesAgree.queue {owed : List Source} {queued : List Report} {s : State}
    {src : Source} {r : Report} (h : s.NoticesAgree owed queued) (hr : r.source = some src)
    (he : src.Exists) (hn : s.noticeState src ≠ .queued) :
    (s.setNotice src .queued).NoticesAgree (owed.filter (· ≠ src)) (queued ++ [r]) where
  lines := (State.lines_setNotice s src _).trans h.lines
  nodup := h.nodup.filter _
  owing x hx := h.owing x (List.mem_filter.1 hx).1
  source x hx y hy := by
    rcases List.mem_append.1 hx with hx | hx
    · exact h.source x hx y hy
    · rw [List.mem_singleton.1 hx, hr] at hy; cases hy; exact he
  agree x hx := by
    obtain ⟨hm, hq⟩ := h.agree x hx
    rw [State.noticeState_setNotice .queued h.lines he]
    by_cases hs : x = src
    · subst hs
      rw [if_neg hn] at hq
      simp [List.filter_append, hr, hq]
    · have hrx : (r.source == some x) = false := by rw [hr]; simpa using fun e => hs e.symm
      rw [if_neg hs, List.filter_append, List.length_append, hq, List.filter_cons_of_neg (by simp [hrx])]
      simp [hm, hs]

/-- A source with notice state none becomes owed. -/
theorem State.NoticesAgree.owe {owed : List Source} {queued : List Report} {s : State}
    {src : Source} (h : s.NoticesAgree owed queued) (he : src.Exists)
    (hn : s.noticeState src = .none) :
    (s.setNotice src .owed).NoticesAgree (owed ++ [src]) queued where
  lines := (State.lines_setNotice s src _).trans h.lines
  nodup := by
    have : src ∉ owed := fun hm => by
      have := (h.agree src he).1.1 hm
      rw [hn] at this; cases this
    refine List.Nodup.append h.nodup (List.nodup_singleton src) fun x hx hy => ?_
    rw [List.mem_singleton.1 hy] at hx
    exact this hx
  owing x hx := by
    rcases List.mem_append.1 hx with hx | hx
    · exact h.owing x hx
    · rw [List.mem_singleton.1 hx]; exact he
  source := h.source
  agree x hx := by
    obtain ⟨hm, hq⟩ := h.agree x hx
    rw [State.noticeState_setNotice .owed h.lines he]
    by_cases hs : x = src
    · subst hs
      rw [hn, if_neg (by decide)] at hq
      simpa using hq
    · simp [hs, hm, hq]

/-- A source that no notice is queued or owed of any more. -/
theorem State.NoticesAgree.settle {owed : List Source} {queued : List Report} {s : State}
    {src : Source} (h : s.NoticesAgree owed queued) (he : src.Exists) (owed' : List Source)
    (queued' : List Report) (ho : owed' = owed.filter (· ≠ src)) (hs : ∀ r ∈ queued', r ∈ queued)
    (hq : ∀ x, (queued'.filter (fun r => r.source == some x)).length =
      if x = src then 0 else (queued.filter (fun r => r.source == some x)).length) :
    (s.setNotice src .none).NoticesAgree owed' queued' where
  lines := (State.lines_setNotice s src _).trans h.lines
  nodup := by rw [ho]; exact h.nodup.filter _
  owing x hx := by rw [ho] at hx; exact h.owing x (List.mem_filter.1 hx).1
  source x hx := h.source x (hs x hx)
  agree x hx := by
    obtain ⟨hm, hn⟩ := h.agree x hx
    rw [State.noticeState_setNotice .none h.lines he, hq, ho]
    by_cases e : x = src
    · simp [e]
    · simp [e, hm, hn]

/-! ### The operations -/

theorem State.noticeState_setReports (s : State) (q : ReportQueue) (src : Source) :
    (s.setReports q).noticeState src = s.noticeState src := by
  cases src <;> simp [State.noticeState]

theorem State.reports_setNotice (s : State) (src : Source) (x : NoticeState) :
    (s.setNotice src x).reports = s.reports := by
  cases src <;> simp [State.setNotice]

/-- The queue changes, and the states with it agree with the new one. -/
theorem State.NoticesAgree.law {owed : List Source} {queued : List Report} {s : State}
    (h : s.NoticesAgree owed queued) (ho : s.reports.owed = owed) (hq : s.reports.queued = queued) :
    s.NoticeLaw := by
  rw [State.noticeLaw_iff, ho, hq]; exact h

/-- The drain queues the notices of owed sources in their order. -/
theorem drainOwed_noticeLaw : ∀ (l : List Source) (s : State),
    s.NoticesAgree l s.reports.queued → (drainOwed l s).NoticeLaw
  | [], s, h => (h.congr (t := s.setReports { s.reports with owed := [] }) rfl
      (State.noticeState_setReports s _)).law rfl rfl
  | src :: rest, s, h => by
    unfold drainOwed
    split
    · have he : src.Exists := h.owing src (List.mem_cons_self ..)
      have hn : s.noticeState src ≠ .queued := by
        have := ((h.agree src he).1).1 (List.mem_cons_self ..)
        simp [this]
      have hd : (src :: rest).filter (· ≠ src) = rest := by
        have hnot := (List.nodup_cons.1 h.nodup).1
        rw [List.filter_cons_of_neg (by simp)]
        exact List.filter_eq_self.2 fun x hx => by
          simpa using fun e : x = src => hnot (e ▸ hx)
      have k := (h.congr (t := s.setReports (s.reports.push (s.noticeReport src))) rfl
        (State.noticeState_setReports s _)).queue (State.noticeReport_source s src) he
        (by rw [State.noticeState_setReports]; exact hn)
      rw [hd] at k
      refine drainOwed_noticeLaw rest _ ?_
      have e : (s.queueNotice src).reports.queued = s.reports.queued ++ [s.noticeReport src] := by
        rw [State.queueNotice, State.reports_setNotice]; rfl
      rw [e]
      exact k
    · exact (h.congr (t := s.setReports { s.reports with owed := src :: rest }) rfl
        (State.noticeState_setReports s _)).law rfl rfl

theorem State.drain_noticeLaw {s : State} (h : s.NoticeLaw) : s.drain.NoticeLaw :=
  drainOwed_noticeLaw _ s ((State.noticeLaw_iff s).1 h)

theorem State.askNotice_noticeLaw {s : State} (src : Source) (h : s.NoticeLaw) :
    (s.askNotice src).NoticeLaw := by
  have hs := (State.noticeLaw_iff s).1 h
  by_cases he : src.Exists
  · unfold State.askNotice
    split
    · rename_i c
      have hn : s.noticeState src = .none := by
        simp only [Bool.and_eq_true, beq_iff_eq] at c; exact c.2
      have notOwed : src ∉ s.reports.owed := fun hm => by
        have := ((hs.agree src he).1).1 hm
        rw [hn] at this; cases this
      unfold State.requestNotice
      split
      · have k := (hs.congr (t := s.setReports (s.reports.push (s.noticeReport src))) rfl
          (State.noticeState_setReports s _)).queue (State.noticeReport_source s src) he
          (by rw [State.noticeState_setReports, hn]; nofun)
        have hd : s.reports.owed.filter (· ≠ src) = s.reports.owed :=
          List.filter_eq_self.2 fun x hx => by simpa using fun e : x = src => notOwed (e ▸ hx)
        rw [hd] at k
        exact k.law (by rw [State.reports_setNotice]; rfl) (by rw [State.reports_setNotice]; rfl)
      · have k := (hs.congr (t := s.setReports { s.reports with owed := s.reports.owed ++ [src] }) rfl
          (State.noticeState_setReports s _)).owe he (by rw [State.noticeState_setReports, hn])
        exact k.law (by rw [State.reports_setNotice]; rfl) (by rw [State.reports_setNotice]; rfl)
    · exact h
  · rw [State.askNotice_absent hs.lines he]; exact h

/-- The law reads of a state the lines' and the ports' notice states, the owed list and the queue. -/
theorem State.NoticeLaw.congr {s t : State} (h : s.NoticeLaw) (hl : t.lines.length = s.lines.length)
    (hn : ∀ src, t.noticeState src = s.noticeState src) (ho : t.reports.owed = s.reports.owed)
    (hq : t.reports.queued = s.reports.queued) : t.NoticeLaw :=
  (((State.noticeLaw_iff s).1 h).congr hl hn).law ho hq

theorem State.setJob_noticeLaw {s : State} (slot : Nat) (j : Job) (h : s.NoticeLaw) :
    (s.setJob slot j).NoticeLaw :=
  h.congr rfl (fun src => by cases src <;> simp [State.noticeState]) rfl rfl

theorem State.clearSlot_noticeLaw {s : State} (slot : Nat) (h : s.NoticeLaw) :
    (s.clearSlot slot).NoticeLaw :=
  h.congr rfl (fun src => by cases src <;> simp [State.noticeState]) rfl rfl

theorem State.setLink_noticeLaw {s : State} (l : Link) (h : s.NoticeLaw) : (s.setLink l).NoticeLaw :=
  h.congr rfl (fun src => by cases src <;> simp [State.noticeState]) rfl rfl

theorem State.setPort_noticeLaw {s : State} {p : PortId} {x : Port} (hx : x.notice = (s.port p).notice)
    (h : s.NoticeLaw) : (s.setPort p x).NoticeLaw :=
  h.congr (by simp) (fun src => by
    cases src with
    | line n => simp [State.noticeState]
    | port q =>
      by_cases e : q = p
      · subst e; simp [State.noticeState, hx]
      · simp [State.noticeState, State.setPort_port_other s _ e]) (by simp) (by simp)

theorem State.setReports_noticeLaw {s : State} {q : ReportQueue} (ho : q.owed = s.reports.owed)
    (hq : q.queued = s.reports.queued) (h : s.NoticeLaw) : (s.setReports q).NoticeLaw :=
  h.congr rfl (State.noticeState_setReports s q) ho hq

theorem State.consume_noticeLaw {s : State} (r : JobReport) (h : s.NoticeLaw) :
    (s.consume r).NoticeLaw :=
  ((((State.noticeLaw_iff s).1 h).pushJob r).congr (t := s.consume r) rfl
    (State.noticeState_setReports s _)).law rfl rfl

theorem State.modifyJob_noticeLaw {s : State} (slot : Nat) (f : Job → Job) (h : s.NoticeLaw) :
    (s.modifyJob slot f).NoticeLaw := by
  unfold State.modifyJob
  split
  · exact State.setJob_noticeLaw slot _ h
  · exact h

theorem State.queueJobReport_noticeLaw {s : State} (slot : Nat) (r : JobReport) (h : s.NoticeLaw) :
    (s.queueJobReport slot r).NoticeLaw := by
  cases hj : s.job? slot with
  | none => simpa only [State.queueJobReport, hj] using h
  | some j =>
    rw [State.queueJobReport_of r hj]
    split
    · exact State.consume_noticeLaw r (State.setJob_noticeLaw slot _ h)
    · exact h

theorem State.giveBack_noticeLaw {s : State} (h : s.NoticeLaw) : s.giveBack.NoticeLaw :=
  State.drain_noticeLaw (State.setReports_noticeLaw rfl rfl h)

theorem State.giveBackStanding_noticeLaw {s : State} (slot : Nat) (h : s.NoticeLaw) :
    (s.giveBackStanding slot).NoticeLaw := by
  unfold State.giveBackStanding
  split
  · split
    · exact State.giveBack_noticeLaw (State.setJob_noticeLaw slot _ h)
    · exact h
  · exact h

theorem State.giveBackRun_noticeLaw {s : State} (slot : Nat) (h : s.NoticeLaw) :
    (s.giveBackRun slot).NoticeLaw := by
  unfold State.giveBackRun
  split
  · split
    · exact State.giveBack_noticeLaw (State.setJob_noticeLaw slot _ h)
    · exact h
  · exact h

theorem State.freeJob_noticeLaw {s : State} (slot : Nat) (h : s.NoticeLaw) :
    (s.freeJob slot).NoticeLaw := by
  unfold State.freeJob
  split
  · exact h
  · refine State.clearSlot_noticeLaw slot (State.giveBackRun_noticeLaw slot
      (State.giveBackStanding_noticeLaw slot ?_))
    split
    · exact State.setPort_noticeLaw rfl h
    · exact h

theorem State.sendHeld_noticeLaw {s : State} (slot : Nat) (r : JobReport) (h : s.NoticeLaw) :
    (s.sendHeld slot r).NoticeLaw := by
  refine State.modifyJob_noticeLaw slot _ ?_
  rw [State.releaseHeld_eq]
  exact State.setLink_noticeLaw _ h

theorem State.cancelWaiting_noticeLaw {s : State} (slot : Nat) (h : s.NoticeLaw) :
    (s.cancelWaiting slot).NoticeLaw := by
  unfold State.cancelWaiting
  split
  · exact h
  · split
    · exact State.freeJob_noticeLaw slot (State.sendHeld_noticeLaw slot _ h)
    · exact State.freeJob_noticeLaw slot h

theorem State.endWithoutRun_noticeLaw {s : State} (slot : Nat) (o : JobOutcome) (h : s.NoticeLaw) :
    (s.endWithoutRun slot o).NoticeLaw := by
  unfold State.endWithoutRun
  split
  · exact h
  · dsimp only
    split
    · exact State.freeJob_noticeLaw slot (State.sendHeld_noticeLaw slot _ h)
    · exact State.freeJob_noticeLaw slot (State.queueJobReport_noticeLaw slot _ h)

theorem State.closeSingle_noticeLaw {s : State} (slot : Nat) (long : Bool) (h : s.NoticeLaw) :
    (s.closeSingle slot long).NoticeLaw := by
  unfold State.closeSingle
  split
  · exact State.modifyJob_noticeLaw slot _ h
  · exact State.freeJob_noticeLaw slot h

theorem State.tableRunEnd_noticeLaw {s : State} (slot : Nat) (h : s.NoticeLaw) :
    (s.tableRunEnd slot).NoticeLaw := by
  cases hj : s.job? slot with
  | none => simpa only [State.tableRunEnd, hj] using h
  | some j =>
    have h1 := State.setJob_noticeLaw slot j.runCounted h
    rw [State.tableRunEnd_of hj]
    dsimp only
    split
    · have h2 := State.queueJobReport_noticeLaw slot
        (s.runReport j.raised (j.raised.endsAt s.comparedTime)) h1
      split
      · exact State.freeJob_noticeLaw slot h2
      · exact State.modifyJob_noticeLaw slot _ h2
    · split
      · exact State.closeSingle_noticeLaw slot _ (State.giveBackStanding_noticeLaw slot
          (State.sendHeld_noticeLaw slot _ h1))
      · exact State.closeSingle_noticeLaw slot _ (State.queueJobReport_noticeLaw slot _ h1)

/-! ### Reports that are removed, records that are cleared -/

/-- The notices of reports removed from the head are delivered one by one. -/
theorem deliverNotices_agree : ∀ (taken rest : List Report) (s : State),
    s.NoticesAgree s.reports.owed (taken ++ rest) →
    (deliverNotices taken s).NoticesAgree s.reports.owed rest
  | [], _, _, h => h
  | r :: taken, rest, s, h => by
    unfold deliverNotices State.deliverNotice
    cases hr : r.source with
    | none =>
      refine deliverNotices_agree taken rest s ⟨h.lines, h.nodup, h.owing,
        fun x hx => h.source x (List.mem_cons_of_mem _ hx), fun src he => ?_⟩
      have := h.agree src he
      rwa [List.cons_append, List.filter_cons_of_neg (by simp [hr])] at this
    | some src =>
      have he : src.Exists := h.source r (List.mem_cons_self ..) src hr
      obtain ⟨hm, hq⟩ := h.agree src he
      have hq1 : 1 ≤ ((r :: taken ++ rest).filter (fun x => x.source == some src)).length := by
        rw [List.cons_append, List.filter_cons_of_pos (by simp [hr])]; simp
      have hs : s.noticeState src = .queued := by
        by_contra hne
        rw [if_neg hne] at hq
        omega
      have notOwed : src ∉ s.reports.owed := fun hin => by
        have := hm.1 hin
        rw [hs] at this; cases this
      have k := h.settle he s.reports.owed (taken ++ rest)
        (List.filter_eq_self.2 fun x hx => by simpa using fun e : x = src => notOwed (e ▸ hx)).symm
        (fun x hx => List.mem_cons_of_mem _ hx) (fun x => by
          by_cases e : x = src
          · subst e
            rw [hs, if_pos rfl, List.cons_append, List.filter_cons_of_pos (by simp [hr])] at hq
            rw [if_pos rfl]
            simpa using hq
          · rw [if_neg e, List.cons_append (a := r), List.filter_cons_of_neg (by
              simpa [hr] using fun c : src = x => e c.symm)])
      have ih := deliverNotices_agree taken rest (s.setNotice src .none)
        (by rw [State.reports_setNotice]; exact k)
      rwa [State.reports_setNotice] at ih

theorem deliverNotices_reports : ∀ (taken : List Report) (s : State),
    (deliverNotices taken s).reports = s.reports
  | [], _ => rfl
  | r :: taken, s => by
    unfold deliverNotices
    rw [deliverNotices_reports taken]
    unfold State.deliverNotice
    split
    · exact State.reports_setNotice s _ _
    · rfl

/-- A READ_REPORTS up to its drain (R156). -/
def State.removed (s : State) (k : Nat) : State :=
  (deliverNotices (s.reports.queued.take k)
    (s.setReports { s.reports with queued := s.reports.queued.drop k })).drain

theorem State.removed_noticeLaw {s : State} (k : Nat) (h : s.NoticeLaw) : (s.removed k).NoticeLaw := by
  have hs := (State.noticeLaw_iff s).1 h
  have hk := deliverNotices_agree (s.reports.queued.take k) (s.reports.queued.drop k)
    (s.setReports { s.reports with queued := s.reports.queued.drop k })
    ((by rw [List.take_append_drop]; exact hs.congr rfl (State.noticeState_setReports s _)))
  exact State.drain_noticeLaw (hk.law (by rw [deliverNotices_reports]) (by rw [deliverNotices_reports]; rfl))

theorem State.setLine_noticeLaw {s : State} {n : Nat} {l : Line} (hl : l.notice = (s.line n).notice)
    (h : s.NoticeLaw) : (s.setLine n l).NoticeLaw := by
  refine h.congr (by simp) (fun src => ?_) rfl rfl
  cases src with
  | line m =>
    by_cases e : m = n
    · subst e
      by_cases hm : m < s.lines.length
      · simp [State.noticeState, State.line_setLine_same s _ hm, hl]
      · simp [State.noticeState, State.setLine, List.set_eq_of_length_le (Nat.le_of_not_lt hm), State.line]
    · simp [State.noticeState, State.line_setLine_other s _ e]
  | port p => simp [State.noticeState]

theorem State.clearCapture_noticeLaw {s : State} (n : Nat) (h : s.NoticeLaw) :
    (s.clearCapture n).NoticeLaw := by
  have h1 : (s.setLine n { s.line n with capture := Capture.cleared }).NoticeLaw :=
    State.setLine_noticeLaw rfl h
  unfold State.clearCapture
  dsimp only
  split
  · rename_i owed
    have hs := (State.noticeLaw_iff _).1 h1
    have hn : n < s.lines.length := by
      by_contra hge
      rw [State.line_of_le (Nat.le_of_not_lt hge)] at owed
      exact absurd owed (by decide)
    have he : (Source.line n).Exists := by
      have := hs.lines
      rw [State.setLine_lines, List.length_set] at this
      show n < 8
      omega
    have hst : (s.setLine n { s.line n with capture := Capture.cleared }).noticeState (.line n)
        = .owed := by
      simp only [State.noticeState, State.line_setLine_same s _ hn]
      simpa using owed
    refine ((hs.congr (t := (s.setLine n { s.line n with capture := Capture.cleared }).setReports
      (s.reports.dropOwed (.line n))) rfl (State.noticeState_setReports _ _)).settle he
        (s.reports.owed.filter (· ≠ .line n)) s.reports.queued ?_ (fun r hr => hr) fun x => ?_).law ?_ ?_
    · rfl
    · by_cases e : x = .line n
      · have := (hs.agree (.line n) he).2
        rw [hst] at this
        rw [if_pos e, e]
        simpa using this
      · rw [if_neg e]; rfl
    · rw [State.reports_setNotice]
      simp [ReportQueue.dropOwed, bne, beq_eq_decide]
    · rw [State.reports_setNotice]; rfl
  · exact h1

theorem compareAll_noticeLaw : ∀ (l : List Report) (s : State), s.NoticeLaw → (compareAll l s).NoticeLaw
  | [], _, h => h
  | r :: rest, s, h => by
    refine compareAll_noticeLaw rest _ ?_
    unfold State.compareDelivered
    split
    · split
      · exact State.askNotice_noticeLaw _ h
      · exact h
    · exact h

end Sys2Proof.Machine
end


section
/-! SUPPORT. The law of the report queue under the shared operations (R148, R150, R154). -/

namespace Sys2Proof.Machine

/-! ### The reservations of the jobs in the slots -/

/-- The reservations that a slot stands for. -/
def reservationsOf : Option Job → Nat
  | some j => j.reservations
  | none => 0

theorem reservationsIn_cons (o : Option Job) (l : List (Option Job)) :
    reservationsIn (o :: l) = reservationsOf o + reservationsIn l := by
  cases o <;> simp [reservationsIn, reservationsOf]

/-- What a slot's new content changes in the sum. -/
theorem reservationsIn_set : ∀ (l : List (Option Job)) (i : Nat) (o : Option Job), i < l.length →
    reservationsIn (l.set i o) + reservationsOf (l.getD i none) = reservationsIn l + reservationsOf o
  | [], _, _, h => absurd h (by simp)
  | x :: l, 0, o, _ => by simp [reservationsIn_cons]; omega
  | x :: l, i + 1, o, h => by
    have ih := reservationsIn_set l i o (by simpa using h)
    simp only [List.set_cons_succ, reservationsIn_cons, List.getD_cons_succ]
    omega

theorem State.reservationsIn_setJob {s : State} {slot : Nat} {j : Job} (k : Job)
    (hj : s.job? slot = some j) :
    reservationsIn (s.slots.set slot (some k)) + j.reservations
      = reservationsIn s.slots + k.reservations := by
  have h := reservationsIn_set s.slots slot (some k) (State.job_lt hj)
  have e : s.slots.getD slot none = some j := hj
  rwa [e] at h

/-! ### The law but for the jobs' states -/

/-- The queue within its places, its reservations those of the jobs, and no room while a notice is owed
(R148, R150, R154). -/
structure State.QueueHolds (s : State) : Prop where
  places   : s.reports.queued.length + s.reports.reserved ≤ 48
  reserved : s.reports.reserved = reservationsIn s.slots
  owed     : s.reports.owed ≠ [] → s.reports.room = 0

theorem State.queueLaw_iff (s : State) : s.QueueLaw ↔ s.QueueHolds ∧
    ∀ slot j, s.job? slot = some j → j.state = .pending → j.runRes = false :=
  ⟨fun ⟨a, b, c, d⟩ => ⟨⟨a, b, c⟩, d⟩, fun ⟨⟨a, b, c⟩, d⟩ => ⟨a, b, c, d⟩⟩

theorem State.QueueHolds.congr {s t : State} (h : s.QueueHolds) (hs : t.slots = s.slots)
    (hq : t.reports.queued = s.reports.queued) (hr : t.reports.reserved = s.reports.reserved)
    (ho : t.reports.owed = s.reports.owed) : t.QueueHolds where
  places := by rw [hq, hr]; exact h.places
  reserved := by rw [hs, hr]; exact h.reserved
  owed := by
    have e : t.reports.room = s.reports.room := by simp only [ReportQueue.room, hq, hr]
    rw [ho, e]
    exact h.owed

/-- The room as a difference within the places (R148). -/
theorem ReportQueue.one_le_room (q : ReportQueue) : 1 ≤ q.room ↔ q.queued.length + q.reserved < 48 := by
  show 1 ≤ 48 - q.queued.length - q.reserved ↔ _
  omega

theorem ReportQueue.room_eq_zero (q : ReportQueue) : q.room = 0 ↔ 48 ≤ q.queued.length + q.reserved := by
  show 48 - q.queued.length - q.reserved = 0 ↔ _
  omega

theorem State.slots_setNotice (s : State) (src : Source) (x : NoticeState) :
    (s.setNotice src x).slots = s.slots := (State.setNotice_moved s src x).slots

theorem State.setNotice_queueHolds {s : State} (src : Source) (x : NoticeState) (h : s.QueueHolds) :
    (s.setNotice src x).QueueHolds :=
  h.congr (State.slots_setNotice s src x) (by rw [State.reports_setNotice])
    (by rw [State.reports_setNotice]) (by rw [State.reports_setNotice])

/-- A drain leaves no notice owed where there is room. -/
theorem drainOwed_queueHolds : ∀ (l : List Source) (s : State),
    s.reports.queued.length + s.reports.reserved ≤ 48 → s.reports.reserved = reservationsIn s.slots →
    (drainOwed l s).QueueHolds
  | [], _, hp, hr => ⟨hp, hr, fun h => absurd rfl h⟩
  | src :: rest, s, hp, hr => by
    unfold drainOwed
    split
    · rename_i room
      rw [ReportQueue.one_le_room] at room
      have e : (s.queueNotice src).reports = s.reports.push (s.noticeReport src) := by
        rw [State.queueNotice, State.reports_setNotice]; rfl
      refine drainOwed_queueHolds rest _ ?_ ?_
      · rw [e]; simp [ReportQueue.push]; omega
      · rw [e, State.queueNotice, State.slots_setNotice]; exact hr
    · rename_i room
      refine ⟨hp, hr, fun _ => ?_⟩
      have : s.reports.room = 0 := by omega
      exact this

theorem State.drain_queueHolds {s : State}
    (hp : s.reports.queued.length + s.reports.reserved ≤ 48)
    (hr : s.reports.reserved = reservationsIn s.slots) : s.drain.QueueHolds :=
  drainOwed_queueHolds _ s hp hr

theorem State.askNotice_queueHolds {s : State} (src : Source) (h : s.QueueHolds) :
    (s.askNotice src).QueueHolds := by
  unfold State.askNotice
  split
  · unfold State.requestNotice
    split
    · rename_i room
      refine State.setNotice_queueHolds src _ ⟨?_, h.reserved, fun ho => ?_⟩
      · rw [ReportQueue.one_le_room] at room
        simp [ReportQueue.push]; omega
      · have := h.owed ho
        omega
    · rename_i room
      refine State.setNotice_queueHolds src _ ⟨h.places, h.reserved, fun _ => ?_⟩
      have : s.reports.room = 0 := by omega
      exact this
  · exact h

/-- A job's record replaced by one with as many reservations. -/
theorem State.setJob_queueHolds {s : State} {slot : Nat} {j k : Job} (hj : s.job? slot = some j)
    (hk : k.reservations = j.reservations) (h : s.QueueHolds) : (s.setJob slot k).QueueHolds where
  places := h.places
  reserved := by
    have := State.reservationsIn_setJob k hj
    have := h.reserved
    simp only [State.setJob_reports, State.setJob_slots]
    omega
  owed := h.owed

/-- A job with one reservation less, which comes back to the queue. -/
theorem State.giveBack_queueHolds {s : State} {slot : Nat} {j k : Job} (hj : s.job? slot = some j)
    (hk : k.reservations + 1 = j.reservations) (h : s.QueueHolds) :
    (s.setJob slot k).giveBack.QueueHolds := by
  have sum := State.reservationsIn_setJob k hj
  have places := h.places
  have reserved := h.reserved
  refine State.drain_queueHolds ?_ ?_
  · simp only [State.setReports_reports, State.setJob_reports]
    omega
  · simp only [State.setReports_reports, State.setJob_reports, State.setReports_slots,
      State.setJob_slots]
    omega

theorem State.giveBackStanding_queueHolds {s : State} (slot : Nat) (h : s.QueueHolds) :
    (s.giveBackStanding slot).QueueHolds := by
  cases hj : s.job? slot with
  | none => simpa only [State.giveBackStanding, hj] using h
  | some j =>
    simp only [State.giveBackStanding, hj]
    split
    · rename_i standing
      exact State.giveBack_queueHolds hj (by simp [Job.reservations, standing, Nat.add_comm]) h
    · exact h

theorem State.giveBackRun_queueHolds {s : State} (slot : Nat) (h : s.QueueHolds) :
    (s.giveBackRun slot).QueueHolds := by
  cases hj : s.job? slot with
  | none => simpa only [State.giveBackRun, hj] using h
  | some j =>
    simp only [State.giveBackRun, hj]
    split
    · rename_i run
      exact State.giveBack_queueHolds hj (by simp [Job.reservations, run]) h
    · exact h

/-- A report queued through a reservation leaves their sum (R151). -/
theorem State.queueJobReport_queueHolds {s : State} (slot : Nat) (r : JobReport) (h : s.QueueHolds) :
    (s.queueJobReport slot r).QueueHolds := by
  cases hj : s.job? slot with
  | none => simpa only [State.queueJobReport, hj] using h
  | some j =>
    rw [State.queueJobReport_of r hj]
    split
    · rename_i c
      have one : j.reported.reservations + 1 = j.reservations := by
        cases hr : j.runRes <;> cases hs : j.standing <;> simp [Job.reported, Job.reservations, hr, hs] at c ⊢
      have sum := State.reservationsIn_setJob j.reported hj
      have places := h.places
      have reserved := h.reserved
      refine ⟨?_, ?_, fun ho => ?_⟩
      · simp only [State.consume, State.setReports_reports, ReportQueue.push, State.setJob_reports,
          List.length_append, List.length_singleton]
        omega
      · simp only [State.consume, State.setReports_reports, State.setReports_slots,
          State.setJob_reports, State.setJob_slots]
        omega
      · have room := (ReportQueue.room_eq_zero _).1 (h.owed ho)
        rw [ReportQueue.room_eq_zero]
        simp only [State.consume, State.setReports_reports, ReportQueue.push, State.setJob_reports,
          List.length_append, List.length_singleton]
        omega
    · exact h

/-- A slot is emptied of a job that holds no reservation. -/
theorem State.clearSlot_queueHolds {s : State} {slot : Nat} {j : Job} (hj : s.job? slot = some j)
    (hk : j.reservations = 0) (h : s.QueueHolds) : (s.clearSlot slot).QueueHolds where
  places := h.places
  reserved := by
    have sum := reservationsIn_set s.slots slot none (State.job_lt hj)
    have e : s.slots.getD slot none = some j := hj
    have := h.reserved
    rw [e] at sum
    simp only [reservationsOf, hk] at sum
    simp only [State.clearSlot_reports, State.clearSlot_slots]
    omega
  owed := h.owed

theorem State.setLink_queueHolds {s : State} (l : Link) (h : s.QueueHolds) : (s.setLink l).QueueHolds :=
  h.congr rfl rfl rfl rfl

theorem State.setPort_queueHolds {s : State} (p : PortId) (x : Port) (h : s.QueueHolds) :
    (s.setPort p x).QueueHolds :=
  h.congr (by simp) (by simp) (by simp) (by simp)

theorem State.giveBackRun_facts {s : State} {slot : Nat} {j : Job} (hj : s.job? slot = some j) :
    (s.giveBackRun slot).slots = s.slots.set slot (some { j with runRes := false }) :=
  (State.giveBackRun_moved hj).slots

/-- A job is freed once it has given back what it holds. -/
theorem State.freeJob_queueHolds {s : State} (slot : Nat) (h : s.QueueHolds) :
    (s.freeJob slot).QueueHolds := by
  cases hj : s.job? slot with
  | none => simpa only [State.freeJob, hj] using h
  | some j =>
    rw [State.freeJob_of hj]
    have hu1 : (s.offList slot j).QueueHolds := by
      unfold State.offList
      split
      · exact State.setPort_queueHolds _ _ h
      · exact h
    have hju : (s.offList slot j).job? slot = some j := by rw [State.job_offList, hj]
    generalize s.offList slot j = u at *
    obtain ⟨-, slots, -, -⟩ := State.giveBackStanding_facts hju
    have hl := State.job_lt hju
    have hj2 : (u.giveBackStanding slot).job? slot = some { j with standing := false } := by
      rw [State.job_of_set slots hl, if_pos rfl]
    have hj3 : ((u.giveBackStanding slot).giveBackRun slot).job? slot
        = some { j with standing := false, runRes := false } := by
      rw [State.job_of_set (State.giveBackRun_facts hj2) (State.job_lt hj2), if_pos rfl]
    exact State.clearSlot_queueHolds hj3 rfl
      (State.giveBackRun_queueHolds slot (State.giveBackStanding_queueHolds slot hu1))

theorem State.releaseHeld_queueHolds {s : State} (payload : List Byte) (h : s.QueueHolds) :
    (s.releaseHeld payload).QueueHolds := by
  rw [State.releaseHeld_eq]
  exact State.setLink_queueHolds _ h

theorem State.sendHeld_queueHolds {s : State} (slot : Nat) (r : JobReport) (h : s.QueueHolds) :
    (s.sendHeld slot r).QueueHolds := by
  have hr := State.releaseHeld_queueHolds (heldPayload r) h
  cases hj : s.job? slot with
  | none =>
    unfold State.sendHeld
    rw [State.modifyJob_none _ (by rw [State.job_releaseHeld, hj])]
    exact hr
  | some j =>
    rw [State.sendHeld_of r hj]
    exact State.setJob_queueHolds (j := j) (by rw [State.job_releaseHeld, hj]) rfl hr

theorem State.cancelWaiting_queueHolds {s : State} (slot : Nat) (h : s.QueueHolds) :
    (s.cancelWaiting slot).QueueHolds := by
  unfold State.cancelWaiting
  split
  · exact h
  · split
    · exact State.freeJob_queueHolds slot (State.sendHeld_queueHolds slot _ h)
    · exact State.freeJob_queueHolds slot h

theorem State.endWithoutRun_queueHolds {s : State} (slot : Nat) (o : JobOutcome) (h : s.QueueHolds) :
    (s.endWithoutRun slot o).QueueHolds := by
  unfold State.endWithoutRun
  split
  · exact h
  · dsimp only
    split
    · exact State.freeJob_queueHolds slot (State.sendHeld_queueHolds slot _ h)
    · exact State.freeJob_queueHolds slot (State.queueJobReport_queueHolds slot _ h)

/-- A job's record changed in a way that leaves its reservations. -/
theorem State.modifyJob_queueHolds {s : State} (slot : Nat) {f : Job → Job}
    (hf : ∀ j, (f j).reservations = j.reservations) (h : s.QueueHolds) :
    (s.modifyJob slot f).QueueHolds := by
  cases hj : s.job? slot with
  | none => rw [State.modifyJob_none f hj]; exact h
  | some j => rw [State.modifyJob_of f hj]; exact State.setJob_queueHolds hj (hf j) h

theorem State.closeSingle_queueHolds {s : State} (slot : Nat) (long : Bool) (h : s.QueueHolds) :
    (s.closeSingle slot long).QueueHolds := by
  unfold State.closeSingle
  split
  · exact State.modifyJob_queueHolds slot (fun _ => rfl) h
  · exact State.freeJob_queueHolds slot h

theorem State.tableRunEnd_queueHolds {s : State} (slot : Nat) (h : s.QueueHolds) :
    (s.tableRunEnd slot).QueueHolds := by
  cases hj : s.job? slot with
  | none => simpa only [State.tableRunEnd, hj] using h
  | some j =>
    have h1 := State.setJob_queueHolds (k := j.runCounted) hj rfl h
    rw [State.tableRunEnd_of hj]
    dsimp only
    split
    · have h2 := State.queueJobReport_queueHolds slot
        (s.runReport j.raised (j.raised.endsAt s.comparedTime)) h1
      split
      · exact State.freeJob_queueHolds slot h2
      · exact State.modifyJob_queueHolds slot (fun _ => rfl) h2
    · split
      · exact State.closeSingle_queueHolds slot _ (State.giveBackStanding_queueHolds slot
          (State.sendHeld_queueHolds slot _ h1))
      · exact State.closeSingle_queueHolds slot _ (State.queueJobReport_queueHolds slot _ h1)

/-- A job that takes one reservation more, which there is room for. -/
theorem State.reserve_queueHolds {s : State} {l : List (Option Job)} (h : s.QueueHolds)
    (room : 1 ≤ s.reports.room) (sum : reservationsIn l = reservationsIn s.slots + 1) :
    ({ s with slots := l } : State).reserve.QueueHolds where
  places := by
    rw [ReportQueue.one_le_room] at room
    have := h.places
    simp only [State.reserve, State.setReports_reports]
    omega
  reserved := by
    have := h.reserved
    simp only [State.reserve, State.setReports_reports, State.setReports_slots]
    omega
  owed ho := by
    have := h.owed ho
    omega

theorem State.grantRun_queueHolds {s : State} {slot : Nat} {j : Job} (hj : s.job? slot = some j)
    (free : j.runRes = false) (room : 1 ≤ s.reports.room) (h : s.QueueHolds) :
    (s.grantRun slot).QueueHolds := by
  simp only [State.grantRun, hj]
  refine State.reserve_queueHolds h room ?_
  have sum := State.reservationsIn_setJob { j with runRes := true } hj
  have one : ({ j with runRes := true } : Job).reservations = j.reservations + 1 := by
    simp [Job.reservations, free]
  omega

/-! ### Reports that are removed, records that are cleared -/

theorem deliverNotices_slots : ∀ (taken : List Report) (s : State),
    (deliverNotices taken s).slots = s.slots
  | [], _ => rfl
  | r :: taken, s => by
    unfold deliverNotices
    rw [deliverNotices_slots taken]
    unfold State.deliverNotice
    split
    · exact State.slots_setNotice s _ _
    · rfl

theorem State.removed_queueHolds {s : State} (k : Nat) (h : s.QueueHolds) : (s.removed k).QueueHolds := by
  have places := h.places
  have reserved := h.reserved
  refine State.drain_queueHolds ?_ ?_
  · rw [deliverNotices_reports]
    simp
    omega
  · rw [deliverNotices_reports, deliverNotices_slots]
    exact reserved

theorem State.clearCapture_queueHolds {s : State} (n : Nat) (h : s.QueueHolds) :
    (s.clearCapture n).QueueHolds := by
  unfold State.clearCapture
  dsimp only
  split
  · refine State.setNotice_queueHolds _ _ ⟨h.places, h.reserved, fun ho => ?_⟩
    refine h.owed fun e => ho ?_
    simp [ReportQueue.dropOwed, e]
  · exact h.congr rfl rfl rfl rfl

end Sys2Proof.Machine
end


section
/-! SUPPORT. The laws of the table, the dispatcher and the held reply where the content of one slot is
replaced (R1, R2, R41, R42, R88, R92, R168). -/

namespace Sys2Proof.Machine

/-! ### The job table -/

/-- A slot whose new content, if any, is a job with the body of the one before (R2, R41, R42). -/
theorem State.TableLaw.replace {s t : State} {slot : Nat} {o : Option Job} (h : s.TableLaw)
    (slots : t.slots = s.slots.set slot o)
    (body : ∀ k, o = some k → ∃ j, s.job? slot = some j ∧ j.SameBody k) : t.TableLaw := by
  obtain ⟨count, fits, distinct⟩ := h
  have old : ∀ i k, t.job? i = some k → ∃ j, s.job? i = some j ∧ k.tag = j.tag ∧
      k.blocks = j.blocks ∧ k.writeLen = j.writeLen ∧ k.readTotal = j.readTotal := by
    intro i k hk
    by_cases hl : slot < s.slots.length
    · rw [State.job_of_set slots hl] at hk
      by_cases hi : i = slot
      · rw [if_pos hi] at hk
        obtain ⟨j, hj, b⟩ := body k hk
        exact ⟨j, hi ▸ hj, b.tag, b.blocks, b.writeLen, b.readTotal⟩
      · rw [if_neg hi] at hk
        exact ⟨k, hk, rfl, rfl, rfl, rfl⟩
    · rw [List.set_eq_of_length_le (Nat.le_of_not_lt hl)] at slots
      simp only [State.job?, slots] at hk
      exact ⟨k, hk, rfl, rfl, rfl, rfl⟩
  refine ⟨by rw [slots, List.length_set, count], fun i k hk => ?_, fun i i' k k' hk hk' hi => ?_⟩
  · obtain ⟨j, hj, tag, blocks, writeLen, readTotal⟩ := old i k hk
    rw [tag, blocks, writeLen, readTotal]
    exact fits i j hj
  · obtain ⟨j, hj, tag, blocks, -, -⟩ := old i k hk
    obtain ⟨j', hj', tag', blocks', -, -⟩ := old i' k' hk'
    rw [tag, blocks, tag', blocks']
    exact distinct i i' j j' hj hj' hi

theorem State.TableLaw.congr {s t : State} (h : s.TableLaw) (slots : t.slots = s.slots) :
    t.TableLaw := by
  simpa only [State.TableLaw, State.job?, slots] using h

/-- A job that ends keeps the table's law. -/
theorem State.Leaves.tableLaw {s t : State} {slot : Nat} {j : Job} {o : Option Job}
    (h : s.Leaves slot j o t) (hj : s.job? slot = some j) (closed : ∀ k, o = some k → j.RunClosed k)
    (law : s.TableLaw) : t.TableLaw :=
  law.replace h.slots fun k hk => ⟨j, hj, (closed k hk).body⟩

/-! ### The dispatcher -/

/-- The slot of the job that a RUNNING port runs. -/
def PortState.runSlot : PortState → Option Nat
  | .running r => some r.slot
  | _ => none

/-- The law of the dispatcher, slot by slot (R88, R92). -/
structure State.Dispatched (s : State) : Prop where
  nodup  : ∀ p, (s.port p).ready.Nodup
  listed : ∀ p i, i ∈ (s.port p).ready ↔
    ∃ j, s.job? i = some j ∧ j.state = .ready ∧ j.port = some p
  runs   : ∀ p i, (s.port p).state.runSlot = some i ↔
    ∃ j, s.job? i = some j ∧ j.state = .active ∧ j.port = some p
  ported : ∀ i j, s.job? i = some j → j.state = .active → j.port ≠ none
  lawful : ∀ i j, s.job? i = some j → j.Lawful

theorem PortState.runSlot_eq_some {x : PortState} {i : Nat} :
    x.runSlot = some i ↔ ∃ r, x = .running r ∧ r.slot = i := by
  cases x <;> simp [PortState.runSlot]

theorem State.dispatchLaw_iff (s : State) : s.DispatchLaw ↔ s.Dispatched := by
  constructor
  · rintro ⟨nodup, listed, runs, active, lawful⟩
    refine ⟨nodup, listed, fun p i => ⟨fun h => ?_, ?_⟩, fun i j hj ha hp => ?_, lawful⟩
    · obtain ⟨r, hr, rfl⟩ := PortState.runSlot_eq_some.1 h
      exact runs p r hr
    · rintro ⟨j, hj, ha, hp⟩
      obtain ⟨q, r, hq, hr, hs⟩ := active i j hj ha
      cases hp.symm.trans hq
      exact PortState.runSlot_eq_some.2 ⟨r, hr, hs⟩
    · obtain ⟨q, r, hq, -, -⟩ := active i j hj ha
      rw [hp] at hq; cases hq
  · rintro ⟨nodup, listed, runs, ported, lawful⟩
    refine ⟨nodup, listed, fun p r hr => (runs p r.slot).1 (by rw [hr]; rfl), fun i j hj ha => ?_, lawful⟩
    obtain ⟨p, hp⟩ := Option.ne_none_iff_exists'.1 (ported i j hj ha)
    obtain ⟨r, hr, hs⟩ := PortState.runSlot_eq_some.1 ((runs p i).2 ⟨j, hj, ha, hp⟩)
    exact ⟨p, r, hp, hr, hs⟩

/-- One slot's content is replaced, and the ready lists and RUNNING ports with it. -/
theorem State.Dispatched.replace {s t : State} (h : s.Dispatched) {slot : Nat} {o : Option Job}
    (job : ∀ i, t.job? i = if i = slot then o else s.job? i)
    (nodup : ∀ p, (t.port p).ready.Nodup)
    (others : ∀ p i, i ≠ slot → (i ∈ (t.port p).ready ↔ i ∈ (s.port p).ready))
    (listed : ∀ p, slot ∈ (t.port p).ready ↔ ∃ j, o = some j ∧ j.state = .ready ∧ j.port = some p)
    (othersRun : ∀ p i, i ≠ slot →
      ((t.port p).state.runSlot = some i ↔ (s.port p).state.runSlot = some i))
    (runs : ∀ p, (t.port p).state.runSlot = some slot ↔
      ∃ j, o = some j ∧ j.state = .active ∧ j.port = some p)
    (lawful : ∀ j, o = some j → j.Lawful ∧ (j.state = .active → j.port ≠ none)) : t.Dispatched where
  nodup := nodup
  listed p i := by
    rw [job i]
    by_cases hi : i = slot
    · subst hi; rw [if_pos rfl]; exact listed p
    · rw [if_neg hi, others p i hi]; exact h.listed p i
  runs p i := by
    rw [job i]
    by_cases hi : i = slot
    · subst hi; rw [if_pos rfl]; exact runs p
    · rw [if_neg hi, othersRun p i hi]; exact h.runs p i
  ported i j hj := by
    rw [job i] at hj
    split at hj
    · exact (lawful j hj).2
    · exact h.ported i j hj
  lawful i j hj := by
    rw [job i] at hj
    split at hj
    · exact (lawful j hj).1
    · exact h.lawful i j hj

/-- The law reads of the ports which jobs are listed and run. -/
theorem State.Dispatched.congr {s t : State} (h : s.Dispatched) (slots : t.slots = s.slots)
    (ready : ∀ p, (t.port p).ready = (s.port p).ready)
    (runs : ∀ p, (t.port p).state.runSlot = (s.port p).state.runSlot) : t.Dispatched where
  nodup p := by rw [ready p]; exact h.nodup p
  listed p i := by rw [ready p]; simpa only [State.job?, slots] using h.listed p i
  runs p i := by rw [runs p]; simpa only [State.job?, slots] using h.runs p i
  ported := by simpa only [State.job?, slots] using h.ported
  lawful := by simpa only [State.job?, slots] using h.lawful

/-- A job that is not READY is on no ready list. -/
theorem State.Dispatched.not_listed {s : State} (h : s.Dispatched) {slot : Nat} {j : Job}
    (hj : s.job? slot = some j) (hs : j.state ≠ .ready) (p : PortId) : slot ∉ (s.port p).ready := by
  intro hm
  obtain ⟨k, hk, ready, -⟩ := (h.listed p slot).1 hm
  cases hj.symm.trans hk
  exact hs ready

/-- A job that is not ACTIVE is run by no port. -/
theorem State.Dispatched.not_run {s : State} (h : s.Dispatched) {slot : Nat} {j : Job}
    (hj : s.job? slot = some j) (hs : j.state ≠ .active) (p : PortId) :
    (s.port p).state.runSlot ≠ some slot := by
  intro hr
  obtain ⟨k, hk, active, -⟩ := (h.runs p slot).1 hr
  cases hj.symm.trans hk
  exact hs active

/-- An entry of a ready list is READY with the port of the list. -/
theorem State.Dispatched.listed_port {s : State} (h : s.Dispatched) {slot : Nat} {j : Job} {p : PortId}
    (hj : s.job? slot = some j) (hm : slot ∈ (s.port p).ready) : j.state = .ready ∧ j.port = some p := by
  obtain ⟨k, hk, ready, port⟩ := (h.listed p slot).1 hm
  cases hj.symm.trans hk
  exact ⟨ready, port⟩

/-- What a job leaves of the ready lists: nothing where it is freed, and nothing where it was not READY. -/
theorem State.Leaves.off {s t : State} {slot : Nat} {j : Job} {o : Option Job}
    (h : s.Leaves slot j o t) (hj : s.job? slot = some j) (law : s.Dispatched)
    (c : o = none ∨ j.state ≠ .ready) (p : PortId) : slot ∉ (t.port p).ready := by
  rw [h.ready p]
  split
  · simp
  · rename_i n
    intro hm
    obtain ⟨ready, port⟩ := law.listed_port hj hm
    rcases c with c | c
    · exact n ⟨c, port⟩
    · exact c ready

theorem State.Leaves.job {s t : State} {slot : Nat} {j : Job} {o : Option Job}
    (h : s.Leaves slot j o t) (hj : s.job? slot = some j) (i : Nat) :
    t.job? i = if i = slot then o else s.job? i := State.job_of_set h.slots (State.job_lt hj) i

theorem State.Leaves.nodup {s t : State} {slot : Nat} {j : Job} {o : Option Job}
    (h : s.Leaves slot j o t) (law : s.Dispatched) (p : PortId) : (t.port p).ready.Nodup := by
  rw [h.ready p]
  split
  · exact (law.nodup p).filter _
  · exact law.nodup p

theorem State.Leaves.mem_ready {s t : State} {slot : Nat} {j : Job} {o : Option Job}
    (h : s.Leaves slot j o t) (p : PortId) {i : Nat} (hi : i ≠ slot) :
    i ∈ (t.port p).ready ↔ i ∈ (s.port p).ready := by
  rw [h.ready p]
  split
  · simp [hi]
  · rfl

/-- A job that no port runs ends. -/
theorem State.Leaves.dispatched {s t : State} {slot : Nat} {j : Job} {o : Option Job}
    (h : s.Leaves slot j o t) (hj : s.job? slot = some j) (law : s.Dispatched)
    (notRun : j.state ≠ .active) (c : o = none ∨ j.state ≠ .ready)
    (kept : ∀ k, o = some k → k.Lawful ∧ (k.state = .pending ∨ k.state = .done)) : t.Dispatched := by
  have state : ∀ k, o = some k → k.state ≠ .ready ∧ k.state ≠ .active := fun k hk => by
    rcases (kept k hk).2 with e | e <;> rw [e] <;> decide
  refine law.replace (h.job hj) (h.nodup law) (fun p i hi => h.mem_ready p hi)
    (fun p => ⟨fun hm => absurd hm (h.off hj law c p), fun ⟨k, hk, hr, _⟩ => absurd hr (state k hk).1⟩)
    (fun p i _ => by rw [h.moved.portState p])
    (fun p => ⟨fun hr => absurd (h.moved.portState p ▸ hr) (law.not_run hj notRun p),
      fun ⟨k, hk, ha, _⟩ => absurd ha (state k hk).2⟩)
    (fun k hk => ⟨(kept k hk).1, fun ha => absurd ha (state k hk).2⟩)

/-- What a run that ends leaves is lawful (R5, R12, R15, R20, R21). -/
theorem Job.RunClosed.lawful {j k : Job} (h : j.RunClosed k) (standing : j.standing = true)
    (runRes : j.runRes = true ↔ j.recurring = true) : k.Lawful := by
  obtain ⟨hs, hr⟩ := h.res standing runRes
  refine ⟨hs, ?_, fun hd => ?_, h.fields⟩
  · rcases h.state with ⟨e, -⟩ | ⟨e, -⟩ <;> simp [hr, e]
  · rcases h.state with ⟨e, -⟩ | ⟨-, e, l⟩
    · rw [e] at hd; cases hd
    · exact ⟨by rw [h.body.long, l], by rw [h.body.recurring, e]⟩

/-- The run of a port ends: whatever is left in the slot, the port no longer runs it (R92, R146). -/
theorem State.Leaves.dispatched_port {s t : State} {slot : Nat} {j : Job} {o : Option Job}
    (h : s.Leaves slot j o t) (hj : s.job? slot = some j) (law : s.Dispatched) {p : PortId}
    (run : (s.port p).state.runSlot = some slot) {next : PortState} (idle : next.runSlot = none)
    (kept : ∀ k, o = some k → k.Lawful ∧ (k.state = .pending ∨ k.state = .done)) :
    (t.setPortState p next).Dispatched := by
  obtain ⟨active, port⟩ : j.state = .active ∧ j.port = some p := by
    obtain ⟨k, hk, active, port⟩ := (law.runs p slot).1 run
    cases hj.symm.trans hk
    exact ⟨active, port⟩
  have state : ∀ k, o = some k → k.state ≠ .ready ∧ k.state ≠ .active := fun k hk => by
    rcases (kept k hk).2 with e | e <;> rw [e] <;> decide
  have ready q : ((t.setPortState p next).port q).ready = (t.port q).ready := by
    by_cases hq : q = p
    · subst hq; simp
    · rw [State.setPortState_port_other _ _ hq]
  have runs q : ((t.setPortState p next).port q).state.runSlot =
      if q = p then none else (s.port q).state.runSlot := by
    by_cases hq : q = p
    · subst hq; simp [idle]
    · rw [State.setPortState_port_other _ _ hq, if_neg hq, h.moved.portState]
  refine law.replace (slot := slot) (o := o) (fun i => by rw [State.job_setPortState]; exact h.job hj i)
    (fun q => by rw [ready]; exact h.nodup law q)
    (fun q i hi => by rw [ready]; exact h.mem_ready q hi)
    (fun q => ⟨fun hm => absurd (ready q ▸ hm) (h.off hj law (.inr (by rw [active]; decide)) q),
      fun ⟨k, hk, hr, _⟩ => absurd hr (state k hk).1⟩)
    (fun q i hi => ?_) (fun q => ⟨fun hr => ?_, fun ⟨k, hk, ha, _⟩ => absurd ha (state k hk).2⟩)
    (fun k hk => ⟨(kept k hk).1, fun ha => absurd ha (state k hk).2⟩)
  · rw [runs]
    split
    · rename_i hq
      subst hq
      rw [run]
      simp [Ne.symm hi]
    · rfl
  · rw [runs] at hr
    split at hr
    · cases hr
    · rename_i hq
      obtain ⟨k, hk, -, hp⟩ := (law.runs q slot).1 hr
      cases hj.symm.trans hk
      cases port.symm.trans hp
      exact absurd rfl hq

/-! ### The held reply -/

/-- The two links hold the reply of the same job, if any. -/
def Link.HoldsAs (l l' : Link) : Prop :=
  ∀ tag lseq, (∃ n, l'.slot = .held tag lseq n) ↔ ∃ n, l.slot = .held tag lseq n

theorem Link.HoldsAs.refl (l : Link) : l.HoldsAs l := fun _ _ => Iff.rfl

theorem Link.HoldsAs.of_slot {l l' : Link} (h : l'.slot = l.slot) : l.HoldsAs l' := fun _ _ => by rw [h]

/-- A job whose record is replaced, or which is freed with no reply held, while the link holds as before. -/
theorem State.HeldLaw.keep {s t : State} (h : s.HeldLaw) {slot : Nat} {j : Job}
    {o : Option Job} (hj : s.job? slot = some j)
    (job : ∀ i, t.job? i = if i = slot then o else s.job? i) (link : s.link.HoldsAs t.link)
    (kept : j.replyHeld = true → o ≠ none)
    (same : ∀ k, o = some k → k.tag = j.tag ∧ k.replyHeld = j.replyHeld ∧
      (k.replyHeld = true → j.trigger = .now → j.port ≠ none → j.state = .ready ∨ j.state = .active →
        k.trigger = .now ∧ k.port ≠ none ∧ (k.state = .ready ∨ k.state = .active))) : t.HeldLaw := by
  obtain ⟨agree, live⟩ := h
  have heldIff : ∀ tag, (∃ lseq n, t.link.slot = .held tag lseq n) ↔
      ∃ lseq n, s.link.slot = .held tag lseq n := fun tag =>
    ⟨fun ⟨lseq, n⟩ => ⟨lseq, (link tag lseq).1 n⟩, fun ⟨lseq, n⟩ => ⟨lseq, (link tag lseq).2 n⟩⟩
  refine ⟨fun i k hk => ?_, fun tag lseq n hs => ?_⟩
  · rw [job i] at hk
    split at hk
    · rename_i hi
      obtain ⟨tag, held, form⟩ := same k hk
      obtain ⟨iff, shape⟩ := agree slot j hj
      rw [tag, held, heldIff]
      refine ⟨iff, fun hh => ?_⟩
      obtain ⟨now, port, state⟩ := shape hh
      exact form (held.trans hh) now port state
    · rw [heldIff]
      exact agree i k hk
  · obtain ⟨m, hm⟩ := (link tag lseq).1 ⟨n, hs⟩
    obtain ⟨i, k, hk, ht⟩ := live tag lseq m hm
    by_cases hi : i = slot
    · subst hi
      cases hj.symm.trans hk
      have hh : j.replyHeld = true := ((agree i j hj).1).2 ⟨lseq, m, ht ▸ hm⟩
      obtain ⟨k, hk⟩ := Option.ne_none_iff_exists'.1 (kept hh)
      exact ⟨i, k, by rw [job, if_pos rfl, hk], by rw [(same k hk).1, ht]⟩
    · exact ⟨i, k, by rw [job, if_neg hi, hk], ht⟩

/-- The reply of a job leaves the slot, and what is left of the job has no reply held. -/
theorem State.HeldLaw.sent {s t : State} (h : s.HeldLaw) (table : s.TableLaw) {slot : Nat} {j : Job}
    {o : Option Job} (hj : s.job? slot = some j) (held : j.replyHeld = true)
    (job : ∀ i, t.job? i = if i = slot then o else s.job? i)
    (link : ∀ tag lseq n, t.link.slot ≠ .held tag lseq n)
    (left : ∀ k, o = some k → k.replyHeld = false) : t.HeldLaw := by
  obtain ⟨agree, -⟩ := h
  obtain ⟨-, -, distinct⟩ := table
  obtain ⟨lseq, n, hs⟩ := (agree slot j hj).1.1 held
  refine ⟨fun i k hk => ?_, fun tag lseq n hs => absurd hs (link tag lseq n)⟩
  have notHeld : k.replyHeld = false := by
    rw [job i] at hk
    split at hk
    · exact left k hk
    · rename_i hi
      by_contra hh
      obtain ⟨lseq', n', hs'⟩ := (agree i k hk).1.1 (by simpa using hh)
      rw [hs] at hs'
      have tag : j.tag = k.tag := by injection hs'
      exact (distinct slot i j k hj hk (Ne.symm hi)).1 tag
  refine ⟨⟨fun hh => ?_, fun ⟨lseq, n, hs⟩ => absurd hs (link _ _ _)⟩, fun hh => ?_⟩
  · rw [notHeld] at hh; cases hh
  · rw [notHeld] at hh; cases hh

theorem State.HeldLaw.congr {s t : State} (h : s.HeldLaw) (slots : t.slots = s.slots)
    (link : s.link.HoldsAs t.link) : t.HeldLaw := by
  obtain ⟨agree, live⟩ := h
  have job i : t.job? i = s.job? i := by simp only [State.job?, slots]
  refine ⟨fun i j hj => ?_, fun tag lseq n hs => ?_⟩
  · rw [job] at hj
    obtain ⟨iff, shape⟩ := agree i j hj
    exact ⟨iff.trans ⟨fun ⟨l, n⟩ => ⟨l, (link _ l).2 n⟩, fun ⟨l, n⟩ => ⟨l, (link _ l).1 n⟩⟩, shape⟩
  · obtain ⟨m, hm⟩ := (link tag lseq).1 ⟨n, hs⟩
    obtain ⟨i, j, hj, ht⟩ := live tag lseq m hm
    exact ⟨i, j, by rw [job, hj], ht⟩

/-! ### Which ends release the held reply -/

/-- Whether an end of a job releases the held reply: then none is HELD, and else the link stands. -/
def State.HeldSent (s t : State) (sent : Bool) : Prop :=
  if sent then ∀ tag lseq n, t.link.slot ≠ .held tag lseq n else t.link = s.link

theorem State.freeJob_link (s : State) (slot : Nat) : (s.freeJob slot).link = s.link := by
  cases hj : s.job? slot with
  | none => simp only [State.freeJob, hj]
  | some j =>
    rw [(State.freeJob_moved hj).link]
    cases hp : j.port <;> simp [State.without, hp, State.leaveReady]

theorem State.sendHeld_notHeld {s : State} {slot : Nat} {j : Job} (r : JobReport)
    (hj : s.job? slot = some j) : ∀ tag lseq n, (s.sendHeld slot r).link.slot ≠ .held tag lseq n := by
  rw [State.sendHeld_of r hj]
  exact State.releaseHeld_notHeld s _

theorem State.cancelWaiting_sent {s : State} {slot : Nat} {j : Job} (hj : s.job? slot = some j) :
    s.HeldSent (s.cancelWaiting slot) j.replyHeld := by
  simp only [State.cancelWaiting, hj]
  cases hh : j.replyHeld with
  | true => simpa only [State.HeldSent, if_true, State.freeJob_link] using State.sendHeld_notHeld _ hj
  | false => simp [State.HeldSent, State.freeJob_link]

theorem State.endWithoutRun_sent {s : State} {slot : Nat} {j : Job} (o : JobOutcome)
    (hj : s.job? slot = some j) : s.HeldSent (s.endWithoutRun slot o) j.replyHeld := by
  simp only [State.endWithoutRun, hj]
  cases hh : j.replyHeld with
  | true => simpa only [State.HeldSent, if_true, State.freeJob_link] using State.sendHeld_notHeld _ hj
  | false => simp [State.HeldSent, State.freeJob_link, State.queueJobReport_link]

theorem State.modifyJob_link (s : State) (slot : Nat) (f : Job → Job) :
    (s.modifyJob slot f).link = s.link := by
  unfold State.modifyJob
  split <;> rfl

theorem State.closeSingle_link (s : State) (slot : Nat) (long : Bool) :
    (s.closeSingle slot long).link = s.link := by
  cases long with
  | true => exact State.modifyJob_link s slot _
  | false => exact State.freeJob_link s slot

theorem State.giveBackStanding_link (s : State) (slot : Nat) :
    (s.giveBackStanding slot).link = s.link := by
  cases hj : s.job? slot with
  | none => simp only [State.giveBackStanding, hj]
  | some j => exact (State.giveBackStanding_facts hj).2.2.2

theorem State.tableRunEnd_sent {s : State} {slot : Nat} {j : Job} (hj : s.job? slot = some j) :
    s.HeldSent (s.tableRunEnd slot) (j.replyHeld && !j.recurring) := by
  have hl := State.job_lt hj
  cases hr : j.recurring with
  | true =>
    rw [State.tableRunEnd_recurring hj hr]
    simp only [State.HeldSent, Bool.not_true, Bool.and_false, Bool.false_eq_true, if_false]
    split
    · rw [State.freeJob_link, State.queueJobReport_link]; rfl
    · exact State.queueJobReport_link _ _ _
  | false =>
    rw [State.tableRunEnd_single hj hr]
    cases hh : j.replyHeld with
    | true =>
      simp only [State.HeldSent, Bool.not_false, Bool.and_self, if_true, State.closeSingle_link,
        State.giveBackStanding_link]
      exact State.sendHeld_notHeld _ (State.job_setJob_same _ _ hl)
    | false =>
      simp only [State.HeldSent, Bool.false_and, Bool.false_eq_true, if_false, State.closeSingle_link,
        State.queueJobReport_link]
      rfl

/-- A job that ends keeps the law of the held reply, where its end releases its own reply. -/
theorem State.Leaves.heldLaw {s t : State} {slot : Nat} {j : Job} {o : Option Job}
    (h : s.Leaves slot j o t) (hj : s.job? slot = some j) (table : s.TableLaw) (law : s.HeldLaw)
    (sent : s.HeldSent t j.replyHeld)
    (left : ∀ k, o = some k → k.tag = j.tag ∧ k.replyHeld = false) : t.HeldLaw := by
  cases hh : j.replyHeld with
  | true =>
    rw [hh] at sent
    exact law.sent table hj hh (h.job hj) sent fun k hk => (left k hk).2
  | false =>
    rw [hh] at sent
    have e : t.link = s.link := sent
    refine law.keep hj (h.job hj) (by rw [e]; exact Link.HoldsAs.refl _) (fun c => ?_) fun k hk => ?_
    · rw [hh] at c; cases c
    · obtain ⟨tag, held⟩ := left k hk
      exact ⟨tag, held.trans hh.symm, fun c => by rw [held] at c; cases c⟩

end Sys2Proof.Machine
end


section
/-! SUPPORT. The moves that every command but a reset, an advance and an admission is made of: one
constructor for each shared operation, with what its callers know when they call it. Each law is then a
statement about one move. -/

namespace Sys2Proof.Machine

/-! ### The laws of one port -/

/-- The law of the lines driven, on one port (R109 to R119, R146). -/
def Port.DriveLawful (x : Port) : Prop :=
  (∀ r, x.state = .running r →
      r.phase = .runStart ∨ (r.phase = .start ∧ r.held = false) ∨ r.phase = .pollGap ∨
        r.phase = .pauseFree) →
    (∀ origin stage, x.state = .recovering origin stage → stage = .release) →
    x.drive = Drive.released

theorem State.driveLaw_iff (s : State) : s.DriveLaw ↔ ∀ p, (s.port p).DriveLawful := Iff.rfl

/-- The law of the bits of a byte, on one port (R124, R127). -/
def Port.BitLawful (x : Port) : Prop :=
  ∀ r, x.state = .running r →
    r.bits.length < 9 ∧ (r.phase.inByte = false → r.bits = []) ∧
      (r.bits ≠ [] → x.pulls.length = r.bits.length)

theorem State.bitLaw_iff (s : State) : s.BitLaw ↔ ∀ p, (s.port p).BitLawful := Iff.rfl

/-- A port as it enters a state: what it drives there, and no wait for SCL. -/
def Port.enter (x : Port) (y : PortState) : Port := { x with state := y, drive := y.drive, stretch := 0 }

theorem State.setPortState_eq (s : State) (p : PortId) (y : PortState) :
    s.setPortState p y = s.setPort p ((s.port p).enter y) := rfl

/-- A run drives neither line where it gives no transfer (R126, R131, R133, R138). -/
theorem Run.drive_idle {r : Run} (h : r.phase = .runStart ∨ (r.phase = .start ∧ r.held = false) ∨
    r.phase = .pollGap ∨ r.phase = .pauseFree) : r.drive = Drive.released := by
  rcases h with h | ⟨h, hh⟩ | h | h
  · simp [Run.drive, h]
  · simp [Run.drive, h, hh]
  · simp [Run.drive, h]
  · simp [Run.drive, h]

/-- Entering a state, a port drives what that state lets it. -/
theorem Port.enter_driveLawful (x : Port) (y : PortState) : (x.enter y).DriveLawful := by
  intro idle release
  show y.drive = Drive.released
  cases y with
  | running r => exact Run.drive_idle (idle r rfl)
  | recovering o stage => rw [release o stage rfl]; rfl
  | off => rfl
  | detached => rfl
  | settling n => rfl
  | idle => rfl
  | stuck n => rfl

theorem Port.bitLawful_of_idle {x : Port} (h : x.state.runSlot = none) : x.BitLawful := by
  intro r hr
  rw [hr] at h
  cases h

theorem Port.bitLawful_of_noBits {x : Port} (h : ∀ r, x.state = .running r → r.bits = []) :
    x.BitLawful := by
  intro r hr
  rw [h r hr]
  exact ⟨by decide, fun _ => rfl, fun c => absurd rfl c⟩

/-! ### What a move leaves as it stands -/

/-- From `s` to `t` neither the queue of commands nor the clock has moved, and the laws of the pool, the
shared pins, the lines driven, the bits, the captures and the link have been kept one by one; that of the bits where `G` holds. -/
structure State.Framed (G : Prop) (s t : State) : Prop where
  pending : t.pending = s.pending
  time    : t.time = s.time
  timeSet : t.timeSet = s.timeSet
  ahead   : t.tick.ahead = s.tick.ahead
  pool    : Memory.wf s.pool = true → Memory.wf t.pool = true
  pin     : s.PinLaw → t.PinLaw
  link    : s.link.Released t.link
  capture : (∀ n, (s.line n).capture.Lawful) → ∀ n, (t.line n).capture.Lawful
  drive   : ∀ p, (s.port p).DriveLawful → (t.port p).DriveLawful
  bits    : G → ∀ p, (s.port p).BitLawful → (t.port p).BitLawful

theorem State.Framed.refl {G : Prop} (s : State) : s.Framed G s :=
  ⟨rfl, rfl, rfl, rfl, id, id, Link.Released.refl _, id, fun _ => id, fun _ _ => id⟩

theorem State.Framed.trans {G : Prop} {s t u : State} (h : s.Framed G t) (k : t.Framed G u) :
    s.Framed G u :=
  ⟨k.pending.trans h.pending, k.time.trans h.time, k.timeSet.trans h.timeSet, k.ahead.trans h.ahead,
    k.pool ∘ h.pool, k.pin ∘ h.pin, h.link.trans k.link, k.capture ∘ h.capture,
    fun p => k.drive p ∘ h.drive p, fun g p => k.bits g p ∘ h.bits g p⟩

theorem State.JobsMoved.framed {G : Prop} {s t : State} (h : s.JobsMoved t) : s.Framed G t where
  pending := h.pending
  time := h.time
  timeSet := h.timeSet
  ahead := by rw [h.tick]
  pool hw := by rw [h.pool]; exact hw
  pin law mode := by
    have hb : t.portB.settings = s.portB.settings := h.settings .b
    obtain ⟨x, hx⟩ := h.lines 6
    obtain ⟨y, hy⟩ := h.lines 7
    rw [hx, hy]
    exact law (by rwa [hb] at mode)
  link := h.link
  capture law n := by
    obtain ⟨x, hx⟩ := h.lines n
    rw [hx]
    exact law n
  drive p law := by
    obtain ⟨l, x, hx⟩ := h.ports p
    rw [hx]
    exact law
  bits _ p law := by
    obtain ⟨l, x, hx⟩ := h.ports p
    rw [hx]
    exact law

/-- The law of the captures, line by line, for all numbers: a line that is not there has a cleared one. -/
theorem State.captureLaw_iff (s : State) : s.CaptureLaw ↔ ∀ n, (s.line n).capture.Lawful := by
  constructor
  · intro h n
    by_cases hn : n < s.lines.length
    · have e : s.line n = s.lines[n] := by simp [State.line, List.getD_eq_getElem?_getD, hn]
      rw [e]
      exact h _ (List.getElem_mem hn)
    · rw [State.line_of_le (Nat.le_of_not_lt hn)]
      exact ⟨by decide, by decide, fun _ => ⟨rfl, rfl⟩⟩
  · intro h l hl
    obtain ⟨n, hn, rfl⟩ := List.mem_iff_getElem.1 hl
    have e : s.line n = s.lines[n] := by simp [State.line, List.getD_eq_getElem?_getD, hn]
    rw [← e]
    exact h n

/-! ### The moves -/

/-- A port's own fields have moved: its ready list, its notice state and the job it runs stand, and its
own laws are kept, that of the bits where `G` holds. -/
structure Port.Kept (G : Prop) (x y : Port) : Prop where
  ready  : y.ready = x.ready
  notice : y.notice = x.notice
  runs   : y.state.runSlot = x.state.runSlot
  drive  : x.DriveLawful → y.DriveLawful
  bits   : G → x.BitLawful → y.BitLawful

/-- A job's record has moved in what no law but its own reads. -/
structure Job.Kept (j k : Job) : Prop where
  body      : j.SameBody k
  state     : k.state = j.state
  standing  : k.standing = j.standing
  runRes    : k.runRes = j.runRes
  replyHeld : k.replyHeld = j.replyHeld
  fields    : j.state = .pending → k.ending = j.ending ∧ k.stopping = j.stopping

/-- One shared operation, where its caller may use it. `G` is what the callers may take for granted of the
bits in progress: that their law held at the command's begin. -/
inductive Move (G : Prop) : State → State → Prop
  | tick (s : State) (w : TickWork) (ahead : w.ahead = s.tick.ahead) : Move G s (s.setTick w)
  | pins (s : State) (x : Pins) : Move G s { s with pins := x }
  | pool (s : State) (m : List Host.Cell) (wf : Memory.wf s.pool = true → Memory.wf m = true) :
      Move G s (s.setPool m)
  | port (s : State) (p : PortId) (x : Port) (kept : (s.port p).Kept G x)
      (mode : x.settings.mode = (s.port p).settings.mode ∨ p = .a ∨ x.settings.mode = .off ∨
        ((s.line 6).config.edge = .off ∧ (s.line 7).config.edge = .off)) : Move G s (s.setPort p x)
  | job (s : State) (slot : Nat) (j k : Job) (hj : s.job? slot = some j) (kept : j.Kept k) :
      Move G s (s.setJob slot k)
  | line (s : State) (n : Nat) (l : Line) (notice : l.notice = (s.line n).notice)
      (edge : l.config.edge = (s.line n).config.edge ∨ l.config.edge = .off ∨ n < 6 ∨
        s.portB.settings.mode = .off)
      (capture : (s.line n).capture.Lawful → l.capture.Lawful) : Move G s (s.setLine n l)
  | reports (s : State) (q : ReportQueue) (owed : q.owed = s.reports.owed)
      (queued : q.queued = s.reports.queued) (reserved : q.reserved = s.reports.reserved) :
      Move G s (s.setReports q)
  | ask (s : State) (src : Source) : Move G s (s.askNotice src)
  | clear (s : State) (n : Nat) : Move G s (s.clearCapture n)
  | removed (s : State) (k : Nat) : Move G s (s.removed k)
  | trigger (s : State) (slot : Nat) (j : Job) (t : Time) (late : Bool) (hj : s.job? slot = some j)
      (pending : j.state = .pending) (single : j.recurring = false) : Move G s (s.triggerJob slot t late)
  | grant (s : State) (slot : Nat) (j : Job) (t : Time) (hj : s.job? slot = some j)
      (pending : j.state = .pending) (recurring : j.recurring = true) (room : 1 ≤ s.reports.room) :
      Move G s ((s.grantRun slot).triggerJob slot t false)
  | endWithoutRun (s : State) (slot : Nat) (j : Job) (o : JobOutcome) (hj : s.job? slot = some j)
      (waits : j.state = .pending ∨ j.state = .ready) : Move G s (s.endWithoutRun slot o)
  | cancelWaiting (s : State) (slot : Nat) (j : Job) (hj : s.job? slot = some j)
      (waits : j.state = .pending ∨ j.state = .ready) : Move G s (s.cancelWaiting slot)
  | free (s : State) (slot : Nat) (j : Job) (hj : s.job? slot = some j) (done : j.state = .done) :
      Move G s (s.freeJob slot)
  | dispatch (s : State) (p : PortId) (slot : Nat) (j : Job) (hj : s.job? slot = some j)
      (ready : j.state = .ready) (listed : slot ∈ (s.port p).ready) (idle : (s.port p).state = .idle) :
      Move G s (s.dispatchJob p slot)
  | finish (s : State) (p : PortId) (r : Run) (o : JobOutcome) (next : PortState)
      (run : (s.port p).state.runSlot = some r.slot) (idle : next.runSlot = none) :
      Move G s (s.finishRun p r o next)
  | handBack (s : State) (p : PortId) (r : Run) (retry : Bool) (next : PortState)
      (run : (s.port p).state.runSlot = some r.slot) (idle : next.runSlot = none) :
      Move G s (s.handBack p r retry next)
  | elapse (s : State) (held : ∃ tag lseq n, s.link.slot = .held tag lseq n) : Move G s s.elapseHold

/-- One move after another. -/
abbrev Moves (G : Prop) : State → State → Prop := Relation.ReflTransGen (Move G)

theorem Moves.refl {G : Prop} (s : State) : Moves G s s := Relation.ReflTransGen.refl

theorem Move.moves {G : Prop} {s t : State} (h : Move G s t) : Moves G s t := Relation.ReflTransGen.single h

/-- Whatever each move keeps, a sequence of moves keeps. -/
theorem Moves.keep {G : Prop} {P : State → Prop} (h : ∀ {s t}, Move G s t → P s → P t) {s t : State}
    (m : Moves G s t) : P s → P t := by
  induction m with
  | refl => exact id
  | tail _ step ih => exact fun hp => h step (ih hp)

/-! ### A port that enters a state -/

/-- The port state is set, and the port drives what it drives there. -/
theorem State.setPortState_framed {G : Prop} (s : State) (p : PortId) (y : PortState)
    (bits : G → (s.port p).BitLawful → ((s.port p).enter y).BitLawful) : s.Framed G (s.setPortState p y) where
  pending := by simp
  time := by simp
  timeSet := by simp
  ahead := by simp
  pool := by simp
  pin law mode := by
    have hb : (s.setPortState p y).portB.settings = s.portB.settings := by cases p <;> rfl
    rw [hb] at mode
    simpa using law mode
  link := by simp only [State.setPortState_link]; exact Link.Released.refl _
  capture law n := by simpa using law n
  drive q law := by
    by_cases hq : q = p
    · subst hq
      rw [State.setPortState_port_same]
      exact Port.enter_driveLawful _ y
    · rw [State.setPortState_port_other _ _ hq]; exact law
  bits g q law := by
    by_cases hq : q = p
    · subst hq
      rw [State.setPortState_port_same]
      exact bits g law
    · rw [State.setPortState_port_other _ _ hq]; exact law

/-! ### A trigger -/

/-- The record of a job that a trigger makes READY (R15). -/
def Job.triggered (j : Job) (t : Time) (late : Bool) : Job :=
  { j with state := .ready, run := RunRecord.triggered t late, retriesLeft := j.triggerRetries }

/-- The record with which a marker completes (R17). -/
def Job.completes (j : Job) (t : Time) (late : Bool) : Job :=
  { j with run := RunRecord.marker t late, retriesLeft := j.triggerRetries }

theorem State.triggerJob_port {s : State} {slot : Nat} {j : Job} {p : PortId} (t : Time) (late : Bool)
    (hj : s.job? slot = some j) (pending : j.state = .pending) (port : j.port = some p) :
    s.triggerJob slot t late = (s.setJob slot (j.triggered t late)).joinTail p slot := by
  have at' : (j.state == .pending) = true := by simp [pending]
  unfold State.triggerJob
  split
  · rename_i none; rw [hj] at none; cases none
  · rename_i k hk
    rw [← Option.some.inj (hj.symm.trans hk), if_pos at']
    split
    · rename_i q hq
      rw [port] at hq
      rw [← Option.some.inj hq]
      rfl
    · rename_i hq; rw [port] at hq; cases hq

theorem State.triggerJob_marker {s : State} {slot : Nat} {j : Job} (t : Time) (late : Bool)
    (hj : s.job? slot = some j) (pending : j.state = .pending) (port : j.port = none) :
    s.triggerJob slot t late = (s.setJob slot (j.completes t late)).tableRunEnd slot := by
  have at' : (j.state == .pending) = true := by simp [pending]
  unfold State.triggerJob
  split
  · rename_i none; rw [hj] at none; cases none
  · rename_i k hk
    rw [← Option.some.inj (hj.symm.trans hk), if_pos at']
    split
    · rename_i q hq; rw [port] at hq; cases hq
    · rfl

theorem State.triggerJob_skip {s : State} {slot : Nat} {j : Job} (t : Time) (late : Bool)
    (hj : s.job? slot = some j) (pending : j.state ≠ .pending) : s.triggerJob slot t late = s := by
  have : (j.state == .pending) = false := by simpa using pending
  simp only [State.triggerJob, hj, this]
  rfl

theorem State.grantRun_of {s : State} {slot : Nat} {j : Job} (hj : s.job? slot = some j) :
    s.grantRun slot = (s.setJob slot { j with runRes := true }).reserve := by
  simp only [State.grantRun, hj]

theorem State.joinTail_jobsMoved (s : State) (p : PortId) (slot : Nat) :
    s.JobsMoved (s.joinTail p slot) := s.setReady_jobsMoved p _

theorem State.tableRunEnd_jobsMoved (s : State) (slot : Nat) : s.JobsMoved (s.tableRunEnd slot) := by
  cases hj : s.job? slot with
  | none => simp only [State.tableRunEnd, hj]; exact State.JobsMoved.refl s
  | some j =>
    obtain ⟨o, h, -⟩ := State.tableRunEnd_leaves hj
    exact h.moved

theorem State.triggerJob_jobsMoved (s : State) (slot : Nat) (t : Time) (late : Bool) :
    s.JobsMoved (s.triggerJob slot t late) := by
  unfold State.triggerJob
  split
  · exact State.JobsMoved.refl s
  · split
    · split
      · exact (s.setJob_jobsMoved slot _).trans (State.joinTail_jobsMoved _ _ slot)
      · exact (s.setJob_jobsMoved slot _).trans (State.tableRunEnd_jobsMoved _ slot)
    · exact State.JobsMoved.refl s

theorem State.grantRun_jobsMoved (s : State) (slot : Nat) : s.JobsMoved (s.grantRun slot) := by
  unfold State.grantRun
  split
  · exact (s.setJob_jobsMoved slot _).trans (State.setReports_jobsMoved _ _)
  · exact State.JobsMoved.refl s

theorem State.elapseHold_jobsMoved (s : State) : s.JobsMoved s.elapseHold := by
  unfold State.elapseHold
  split
  · split
    · exact (s.releaseHeld_jobsMoved _).trans (State.modifyJob_jobsMoved _ _ _)
    · exact State.JobsMoved.refl s
  · exact State.JobsMoved.refl s

theorem deliverNotices_moved : ∀ (l : List Report) (s : State), s.NoticesMoved (deliverNotices l s)
  | [], s => State.NoticesMoved.refl s
  | r :: rest, s => by
    have h : s.NoticesMoved (s.deliverNotice r) := by
      unfold State.deliverNotice
      split
      · exact State.setNotice_moved s _ _
      · exact State.NoticesMoved.refl s
    exact h.trans (deliverNotices_moved rest _)

theorem State.removed_jobsMoved (s : State) (k : Nat) : s.JobsMoved (s.removed k) :=
  ((s.setReports_jobsMoved _).trans (deliverNotices_moved _ _).jobsMoved).trans
    (State.drain_moved _).jobsMoved

/-! ### What each move leaves as it stands -/

theorem State.setPort_framed {G : Prop} (s : State) (p : PortId) (x : Port) (kept : (s.port p).Kept G x)
    (mode : x.settings.mode = (s.port p).settings.mode ∨ p = .a ∨ x.settings.mode = .off ∨
      ((s.line 6).config.edge = .off ∧ (s.line 7).config.edge = .off)) : s.Framed G (s.setPort p x) where
  pending := by simp
  time := by simp
  timeSet := by simp
  ahead := by simp
  pool := by simp
  pin law on := by
    simp only [State.line_setPort]
    rcases mode with e | e | e | e
    · refine law fun off => on ?_
      cases p with
      | a => exact off
      | b => exact e.trans off
    · subst e; exact law on
    · refine law fun off => on ?_
      cases p with
      | a => exact off
      | b => exact e
    · exact e
  link := by simp only [State.setPort_link]; exact Link.Released.refl _
  capture law n := by simpa using law n
  drive q law := by
    by_cases hq : q = p
    · subst hq; rw [State.setPort_port_same]; exact kept.drive law
    · rw [State.setPort_port_other _ _ hq]; exact law
  bits g q law := by
    by_cases hq : q = p
    · subst hq; rw [State.setPort_port_same]; exact kept.bits g law
    · rw [State.setPort_port_other _ _ hq]; exact law

theorem State.line_setLine (s : State) (n : Nat) (l : Line) (i : Nat) :
    (s.setLine n l).line i = if i = n ∧ n < s.lines.length then l else s.line i := by
  by_cases hi : i = n
  · subst hi
    by_cases hn : i < s.lines.length
    · rw [State.line_setLine_same s l hn, if_pos ⟨rfl, hn⟩]
    · rw [if_neg (fun c => hn c.2)]
      simp only [State.setLine, List.set_eq_of_length_le (Nat.le_of_not_lt hn)]
  · rw [State.line_setLine_other s l hi, if_neg (fun c => hi c.1)]

theorem State.setLine_framed {G : Prop} (s : State) (n : Nat) (l : Line)
    (edge : l.config.edge = (s.line n).config.edge ∨ l.config.edge = .off ∨ n < 6 ∨
      s.portB.settings.mode = .off)
    (capture : (s.line n).capture.Lawful → l.capture.Lawful) : s.Framed G (s.setLine n l) where
  pending := rfl
  time := rfl
  timeSet := rfl
  ahead := rfl
  pool := id
  pin law on := by
    have edges : ∀ i, (i = 6 ∨ i = 7) → (s.line i).config.edge = .off →
        ((s.setLine n l).line i).config.edge = .off := by
      intro i hi off
      rw [State.line_setLine]
      split
      · rename_i c
        rw [c.1] at off hi
        rcases edge with e | e | e | e
        · rw [e, off]
        · exact e
        · omega
        · exact absurd e on
      · exact off
    obtain ⟨h6, h7⟩ := law on
    exact ⟨edges 6 (.inl rfl) h6, edges 7 (.inr rfl) h7⟩
  link := Link.Released.refl _
  capture law i := by
    rw [State.line_setLine]
    split
    · exact capture (law n)
    · exact law i
  drive p law := by simpa using law
  bits _ p law := by simpa using law

theorem State.sameFields_framed {G : Prop} {s t : State} (pending : t.pending = s.pending) (time : t.time = s.time)
    (timeSet : t.timeSet = s.timeSet) (ahead : t.tick.ahead = s.tick.ahead)
    (pool : Memory.wf s.pool = true → Memory.wf t.pool = true) (link : t.link = s.link)
    (lines : t.lines = s.lines) (ports : ∀ p, t.port p = s.port p) : s.Framed G t where
  pending := pending
  time := time
  timeSet := timeSet
  ahead := ahead
  pool := pool
  pin law on := by
    have hb : t.portB = s.portB := ports .b
    rw [hb] at on
    simpa only [State.line, lines] using law on
  link := by rw [link]; exact Link.Released.refl _
  capture law n := by simpa only [State.line, lines] using law n
  drive p law := by rw [ports]; exact law
  bits _ p law := by rw [ports]; exact law

theorem Capture.cleared_lawful : Capture.cleared.Lawful := ⟨by decide, by decide, fun _ => ⟨rfl, rfl⟩⟩

/-- A record cleared, and the notice owed of it. -/
theorem State.clearCapture_framed {G : Prop} (s : State) (n : Nat) : s.Framed G (s.clearCapture n) := by
  have h := s.setLine_framed (G := G) n { s.line n with capture := Capture.cleared } (.inl rfl)
    (fun _ => Capture.cleared_lawful)
  unfold State.clearCapture
  dsimp only
  split
  · exact h.trans ((State.setReports_jobsMoved _ _).trans
      (State.setNotice_moved _ _ _).jobsMoved).framed
  · exact h

theorem State.modifyRecord_jobsMoved (s : State) (slot : Nat) (f : RunRecord → RunRecord) :
    s.JobsMoved (s.modifyRecord slot f) := s.modifyJob_jobsMoved slot _

theorem Move.framed {G : Prop} {s t : State} (h : Move G s t) : s.Framed G t := by
  cases h with
  | tick w ahead => exact State.sameFields_framed rfl rfl rfl ahead id rfl rfl (fun p => by simp)
  | pins x => exact State.sameFields_framed rfl rfl rfl rfl id rfl rfl (fun p => by cases p <;> rfl)
  | pool m wf => exact State.sameFields_framed rfl rfl rfl rfl wf rfl rfl (fun p => by simp)
  | port p x kept mode => exact s.setPort_framed p x kept mode
  | job slot j k hj kept => exact (s.setJob_jobsMoved slot k).framed
  | line n l notice edge capture => exact s.setLine_framed n l edge capture
  | reports q => exact (s.setReports_jobsMoved q).framed
  | ask src => exact (State.askNotice_moved s src).jobsMoved.framed
  | clear n => exact s.clearCapture_framed n
  | removed k => exact (s.removed_jobsMoved k).framed
  | trigger slot j t late => exact (s.triggerJob_jobsMoved slot t late).framed
  | grant slot j t =>
    exact ((s.grantRun_jobsMoved slot).trans (State.triggerJob_jobsMoved _ slot t false)).framed
  | endWithoutRun slot j o hj => exact (State.endWithoutRun_leaves o hj).moved.framed
  | cancelWaiting slot j hj => exact (State.cancelWaiting_leaves hj).moved.framed
  | free slot j hj => exact (State.freeJob_leaves hj).moved.framed
  | dispatch p slot j hj =>
    exact (((s.setReady_jobsMoved p _).trans (State.modifyJob_jobsMoved _ slot _)).framed).trans
      (State.setPortState_framed _ p _ fun _ _ => Port.bitLawful_of_noBits fun r hr => by
        cases hr; rfl)
  | finish p r o next run idle =>
    exact ((s.modifyRecord_jobsMoved r.slot _).trans (State.tableRunEnd_jobsMoved _ r.slot)).framed.trans
      (State.setPortState_framed _ p _ fun _ _ => Port.bitLawful_of_idle idle)
  | handBack p r retry next run idle =>
    exact (((s.modifyJob_jobsMoved r.slot _).trans (State.setReady_jobsMoved _ p _)).framed).trans
      (State.setPortState_framed _ p _ fun _ _ => Port.bitLawful_of_idle idle)
  | elapse => exact s.elapseHold_jobsMoved.framed

theorem Moves.framed {G : Prop} {s t : State} (h : Moves G s t) : s.Framed G t :=
  Moves.keep (P := s.Framed G) (fun m h => h.trans m.framed) h (State.Framed.refl s)

end Sys2Proof.Machine
end


section
/-! SUPPORT. Each move keeps the laws of the table, the report queue, the notices, the dispatcher and the
held reply (R2, R41, R88, R92, R148 to R154, R168). -/

namespace Sys2Proof.Machine

/-! ### Moves that leave every job where it stands -/

/-- From `s` to `t` no job, no ready list, no running port and no held reply has moved. -/
structure State.Beside (s t : State) : Prop where
  slots : t.slots = s.slots
  ready : ∀ p, (t.port p).ready = (s.port p).ready
  runs  : ∀ p, (t.port p).state.runSlot = (s.port p).state.runSlot
  link  : t.link = s.link

theorem State.Beside.trans {s t u : State} (h : s.Beside t) (k : t.Beside u) : s.Beside u :=
  ⟨k.slots.trans h.slots, fun p => (k.ready p).trans (h.ready p), fun p => (k.runs p).trans (h.runs p),
    k.link.trans h.link⟩

theorem State.Beside.of_ports {s t : State} (slots : t.slots = s.slots)
    (ports : ∀ p, t.port p = s.port p) (link : t.link = s.link) : s.Beside t :=
  ⟨slots, fun p => by rw [ports], fun p => by rw [ports], link⟩

theorem State.NoticesMoved.beside {s t : State} (h : s.NoticesMoved t) (slots : t.slots = s.slots) :
    s.Beside t where
  slots := slots
  ready p := by obtain ⟨x, hx⟩ := h.ports p; rw [hx]
  runs p := by rw [h.jobsMoved.portState p]
  link := h.link

theorem State.setPort_beside {G : Prop} {s : State} {p : PortId} {x : Port}
    (kept : (s.port p).Kept G x) :
    s.Beside (s.setPort p x) where
  slots := by simp
  ready q := by
    by_cases h : q = p
    · subst h; rw [State.setPort_port_same]; exact kept.ready
    · rw [State.setPort_port_other _ _ h]
  runs q := by
    by_cases h : q = p
    · subst h; rw [State.setPort_port_same]; exact kept.runs
    · rw [State.setPort_port_other _ _ h]
  link := by simp

theorem State.askNotice_beside (s : State) (src : Source) : s.Beside (s.askNotice src) :=
  (State.askNotice_moved s src).beside (State.askNotice_moved s src).slots

theorem State.clearCapture_beside (s : State) (n : Nat) : s.Beside (s.clearCapture n) := by
  have h : s.Beside (s.setLine n { s.line n with capture := Capture.cleared }) :=
    State.Beside.of_ports rfl (fun p => by simp) rfl
  unfold State.clearCapture
  dsimp only
  split
  · have k : ∀ u : State, ∀ q, u.Beside (u.setReports q) := fun u q =>
      State.Beside.of_ports rfl (fun p => by simp) rfl
    exact (h.trans (k _ _)).trans
      ((State.setNotice_moved _ _ _).beside (State.slots_setNotice _ _ _))
  · exact h

theorem State.removed_beside (s : State) (k : Nat) : s.Beside (s.removed k) := by
  have h : s.Beside (s.setReports { s.reports with queued := s.reports.queued.drop k }) :=
    State.Beside.of_ports rfl (fun p => by simp) rfl
  refine (h.trans ((deliverNotices_moved (s.reports.queued.take k) _).beside
    (deliverNotices_slots _ _))).trans ?_
  exact (State.drain_moved _).beside (State.drain_moved _).slots

theorem State.Beside.tableLaw {s t : State} (h : s.Beside t) (law : s.TableLaw) : t.TableLaw :=
  law.congr h.slots

theorem State.Beside.dispatched {s t : State} (h : s.Beside t) (law : s.Dispatched) : t.Dispatched :=
  law.congr h.slots h.ready h.runs

theorem State.Beside.heldLaw {s t : State} (h : s.Beside t) (law : s.HeldLaw) : t.HeldLaw :=
  law.congr h.slots (Link.HoldsAs.of_slot (by rw [h.link]))

/-! ### A trigger -/

/-- In `u` the job `k` in `slot` is `j` of `s` as a trigger finds it: PENDING, with a run reservation where
it is recurring (R15). -/
structure State.Armed (s u : State) (slot : Nat) (j k : Job) : Prop where
  job     : s.job? slot = some j
  state   : j.state = .pending
  moved   : s.JobsMoved u
  slots   : u.slots = s.slots.set slot (some k)
  ports   : ∀ p, u.port p = s.port p
  link    : u.link = s.link
  body    : j.SameBody k
  pending : k.state = .pending
  held    : k.replyHeld = j.replyHeld
  fields  : k.ending = j.ending ∧ k.stopping = j.stopping
  res     : j.Lawful → k.standing = j.standing ∧ k.runRes = j.recurring

theorem Job.SameBody.refl (j : Job) : j.SameBody j := ⟨rfl, rfl, rfl, rfl, rfl, rfl⟩

theorem State.armed_single {s : State} {slot : Nat} {j : Job} (hj : s.job? slot = some j)
    (pending : j.state = .pending) (single : j.recurring = false) : s.Armed s slot j j where
  job := hj
  state := pending
  moved := State.JobsMoved.refl s
  slots := (congrArg State.slots (State.setJob_self hj)).symm
  ports _ := rfl
  link := rfl
  body := Job.SameBody.refl j
  pending := pending
  held := rfl
  fields := ⟨rfl, rfl⟩
  res lawful := by
    obtain ⟨-, runRes, -, -⟩ := lawful
    refine ⟨rfl, ?_⟩
    rw [single, Bool.eq_false_iff]
    intro c
    rw [(runRes.1 c).1] at single
    cases single

/-- A recurring job with the run reservation that an EVERY match gives it (R60). -/
def Job.granted (j : Job) : Job := { j with runRes := true }

theorem State.armed_grant {s : State} {slot : Nat} {j : Job} (hj : s.job? slot = some j)
    (pending : j.state = .pending) (recurring : j.recurring = true) :
    s.Armed (s.grantRun slot) slot j j.granted where
  job := hj
  state := pending
  moved := s.grantRun_jobsMoved slot
  slots := by rw [State.grantRun_of hj]; rfl
  ports p := by rw [State.grantRun_of hj]; simp [State.reserve]
  link := by rw [State.grantRun_of hj]; rfl
  body := ⟨rfl, rfl, rfl, rfl, rfl, rfl⟩
  pending := pending
  held := rfl
  fields := ⟨rfl, rfl⟩
  res _ := ⟨rfl, recurring.symm⟩

theorem State.Armed.lt {s u : State} {slot : Nat} {j k : Job} (h : s.Armed u slot j k) :
    slot < s.slots.length := State.job_lt h.job

theorem State.Armed.jobNow {s u : State} {slot : Nat} {j k : Job} (h : s.Armed u slot j k) :
    u.job? slot = some k := by rw [State.job_of_set h.slots h.lt, if_pos rfl]

/-- A trigger of a job of a port: the job is READY at the tail of the port's list (R15, R89). -/
theorem State.Armed.triggers {s u : State} {slot : Nat} {j k : Job} (h : s.Armed u slot j k)
    {p : PortId} (port : j.port = some p) (t : Time) (late : Bool) :
    (u.triggerJob slot t late).slots = s.slots.set slot (some (k.triggered t late)) ∧
    (∀ q, ((u.triggerJob slot t late).port q).ready =
      if q = p then (s.port p).ready ++ [slot] else (s.port q).ready) ∧
    (∀ q, ((u.triggerJob slot t late).port q).state = (s.port q).state) ∧
    (u.triggerJob slot t late).link = s.link := by
  have hp : k.port = some p := h.body.port.trans port
  rw [State.triggerJob_port t late h.jobNow h.pending hp]
  refine ⟨by simp [State.joinTail, h.slots], fun q => ?_, fun q => ?_, by simp [State.joinTail, h.link]⟩
  · by_cases hq : q = p
    · subst hq; simp [State.joinTail, h.ports]
    · rw [if_neg hq, State.joinTail, State.setPort_port_other _ _ hq]; simp [h.ports]
  · by_cases hq : q = p
    · subst hq; simp [State.joinTail, h.ports]
    · rw [State.joinTail, State.setPort_port_other _ _ hq]; simp [h.ports]

/-- A trigger of a marker: its run ends there (R17). -/
theorem State.Armed.completes {s u : State} {slot : Nat} {j k : Job} (h : s.Armed u slot j k)
    (port : j.port = none) (t : Time) (late : Bool) :
    ∃ o, s.Leaves slot j o (u.triggerJob slot t late) ∧
      (∀ l, o = some l → (k.completes t late).RunClosed l) ∧
      s.HeldSent (u.triggerJob slot t late) (j.replyHeld && !j.recurring) := by
  have hp : k.port = none := h.body.port.trans port
  have hk : (u.setJob slot (k.completes t late)).job? slot = some (k.completes t late) :=
    State.job_setJob_same _ _ (State.job_lt h.jobNow)
  have sent := State.tableRunEnd_sent hk
  obtain ⟨o, ends, closed⟩ := State.tableRunEnd_leaves hk
  rw [State.triggerJob_marker t late h.jobNow h.pending hp]
  refine ⟨o, State.Leaves.after (k := k.completes t late) (h.moved.trans (State.setJob_jobsMoved _ _ _))
    (by simp [h.slots]) (fun p => by simp [h.ports]) h.body.port ends, closed, ?_⟩
  have held : (k.completes t late).replyHeld = j.replyHeld := h.held
  have recurring : (k.completes t late).recurring = j.recurring := h.body.recurring
  rw [held, recurring] at sent
  unfold State.HeldSent at sent ⊢
  split
  · rename_i c; rwa [if_pos c] at sent
  · rename_i c
    rw [if_neg c] at sent
    exact sent.trans h.link

theorem Job.Lawful.triggered {j k : Job} (h : j.Lawful) (pending : j.state = .pending)
    (body : j.SameBody k) (res : k.standing = j.standing ∧ k.runRes = j.recurring) (t : Time)
    (late : Bool) : (k.triggered t late).Lawful := by
  obtain ⟨standing, -, -, -⟩ := h
  refine ⟨?_, ?_, nofun, nofun⟩
  · show k.standing = true ↔ JobState.ready ≠ .done
    rw [res.1, standing, pending]
    decide
  · show k.runRes = true ↔ k.recurring = true ∧ _
    rw [res.2, body.recurring]
    simp [Job.triggered]

/-- A PENDING job that a trigger makes READY, or completes (R15, R17). -/
theorem State.Armed.dispatched {s u : State} {slot : Nat} {j k : Job} (h : s.Armed u slot j k)
    (t : Time) (late : Bool) (law : s.Dispatched) : (u.triggerJob slot t late).Dispatched := by
  have lawful := law.lawful slot j h.job
  cases port : j.port with
  | none =>
    obtain ⟨o, ends, closed, -⟩ := h.completes port t late
    refine ends.dispatched h.job law (by rw [h.state]; decide) (.inr (by rw [h.state]; decide))
      fun l hl => ⟨(closed l hl).lawful ?_ ?_, ?_⟩
    · show k.standing = true
      rw [(h.res lawful).1, lawful.1, h.state]
      decide
    · show k.runRes = true ↔ k.recurring = true
      rw [(h.res lawful).2, h.body.recurring]
    · rcases (closed l hl).state with ⟨e, -⟩ | ⟨e, -⟩
      · exact .inl e
      · exact .inr e
  | some p =>
    obtain ⟨slots, ready, state, -⟩ := h.triggers port t late
    have notListed := law.not_listed h.job (by rw [h.state]; decide)
    have kport : (k.triggered t late).port = some p := h.body.port.trans port
    refine law.replace (slot := slot) (State.job_of_set slots h.lt) (fun q => ?_) (fun q i hi => ?_)
      (fun q => ?_) (fun q i _ => by rw [state]) (fun q => ⟨fun hr => ?_, ?_⟩) fun l hl => ?_
    · rw [ready]
      split
      · refine List.nodup_append.2 ⟨law.nodup p, by simp, fun a ha b hb e => ?_⟩
        rw [e, List.mem_singleton.1 hb] at ha
        exact notListed p ha
      · exact law.nodup q
    · rw [ready]
      split
      · rename_i hq; subst hq; simp [hi]
      · rfl
    · rw [ready]
      split
      · rename_i hq
        subst hq
        exact ⟨fun _ => ⟨_, rfl, rfl, kport⟩, fun _ => by simp⟩
      · rename_i hq
        refine ⟨fun hm => absurd hm (notListed q), fun ⟨l, hl, _, hp⟩ => ?_⟩
        rw [← Option.some.inj hl, kport] at hp
        exact absurd (Option.some.inj hp).symm hq
    · rw [state] at hr
      exact absurd hr (law.not_run h.job (by rw [h.state]; decide) q)
    · rintro ⟨l, hl, active, -⟩
      rw [← Option.some.inj hl] at active
      cases active
    · rw [← Option.some.inj hl]
      exact ⟨lawful.triggered h.state h.body (h.res lawful) t late, nofun⟩

theorem State.Armed.heldLaw {s u : State} {slot : Nat} {j k : Job} (h : s.Armed u slot j k)
    (t : Time) (late : Bool) (table : s.TableLaw) (law : s.HeldLaw) :
    (u.triggerJob slot t late).HeldLaw := by
  have notHeld : j.replyHeld = false := by
    by_contra hh
    obtain ⟨-, -, state⟩ := (law.1 slot j h.job).2 (by simpa using hh)
    rw [h.state] at state
    rcases state with e | e <;> cases e
  cases port : j.port with
  | none =>
    obtain ⟨o, ends, closed, sent⟩ := h.completes port t late
    rw [notHeld] at sent
    exact ends.heldLaw h.job table law (by rw [notHeld]; exact sent) fun l hl =>
      ⟨(closed l hl).body.tag.trans h.body.tag, (closed l hl).held (.inl (h.held.trans notHeld))⟩
  | some p =>
    obtain ⟨slots, -, -, link⟩ := h.triggers port t late
    refine law.keep h.job (State.job_of_set slots h.lt) (Link.HoldsAs.of_slot (by rw [link])) nofun
      fun l hl => ?_
    rw [← Option.some.inj hl]
    have held : (k.triggered t late).replyHeld = false := h.held.trans notHeld
    exact ⟨h.body.tag, held.trans notHeld.symm, fun c => by rw [held] at c; cases c⟩

/-! ### A record that is changed where it stands -/

theorem State.setJob_dispatched {s : State} {slot : Nat} {j k : Job} (hj : s.job? slot = some j)
    (body : j.SameBody k) (state : k.state = j.state) (lawful : j.Lawful → k.Lawful)
    (law : s.Dispatched) : (s.setJob slot k).Dispatched := by
  have same (x : JobState) (p : PortId) : (∃ l, some k = some l ∧ l.state = x ∧ l.port = some p) ↔
      ∃ l, s.job? slot = some l ∧ l.state = x ∧ l.port = some p := by
    rw [hj]
    constructor
    · rintro ⟨l, hl, hs, hp⟩
      rw [← Option.some.inj hl] at hs hp
      exact ⟨j, rfl, state ▸ hs, body.port ▸ hp⟩
    · rintro ⟨l, hl, hs, hp⟩
      rw [← Option.some.inj hl] at hs hp
      exact ⟨k, rfl, state ▸ hs, body.port ▸ hp⟩
  refine law.replace (slot := slot) (State.job_of_set rfl (State.job_lt hj))
    (fun p => by simpa using law.nodup p) (fun p i _ => by simp)
    (fun p => by rw [same .ready p]; simpa using law.listed p slot) (fun p i _ => by simp)
    (fun p => by rw [same .active p]; simpa using law.runs p slot) fun l hl => ?_
  rw [← Option.some.inj hl]
  refine ⟨lawful (law.lawful slot j hj), fun active => ?_⟩
  rw [body.port]
  exact law.ported slot j hj (state ▸ active)

/-- A changed record whose state and reservations stand is as lawful as before. -/
theorem Job.Lawful.congr {j k : Job} (h : j.Lawful) (body : j.SameBody k) (state : k.state = j.state)
    (standing : k.standing = j.standing) (runRes : k.runRes = j.runRes)
    (fields : j.state = .pending → k.ending = j.ending ∧ k.stopping = j.stopping) : k.Lawful := by
  obtain ⟨hs, hr, hd, hp⟩ := h
  refine ⟨by rw [standing, state, hs], by rw [runRes, state, body.recurring, hr], fun c => ?_,
    fun c => ?_⟩
  · rw [body.long, body.recurring]
    exact hd (state ▸ c)
  · rw [state] at c
    rw [(fields c).1, (fields c).2]
    exact hp c

theorem State.setJob_heldLaw {s : State} {slot : Nat} {j k : Job} (hj : s.job? slot = some j)
    (body : j.SameBody k) (held : k.replyHeld = j.replyHeld)
    (state : j.state = .ready ∨ j.state = .active → k.state = .ready ∨ k.state = .active)
    (law : s.HeldLaw) : (s.setJob slot k).HeldLaw := by
  refine law.keep hj (State.job_of_set rfl (State.job_lt hj)) (Link.HoldsAs.refl _) nofun fun l hl => ?_
  rw [← Option.some.inj hl]
  exact ⟨body.tag, held, fun _ now port hs => ⟨by rw [body.trigger, now], by rw [body.port]; exact port,
    state hs⟩⟩

theorem Job.Kept.lawful {j k : Job} (h : j.Kept k) (law : j.Lawful) : k.Lawful :=
  law.congr h.body h.state h.standing h.runRes h.fields

/-! ### The hold limit -/

/-- A job whose reply is no longer held. -/
def Job.notHeld (j : Job) : Job := { j with replyHeld := false }

/-- What the elapse of the hold limit does: the reply of a job leaves the slot. -/
theorem State.elapseHold_of (s : State) : s.elapseHold = s ∨ ∃ slot j payload,
    s.findSlot s.link.slot.tag = some slot ∧ s.job? slot = some j ∧
      s.elapseHold = (s.releaseHeld payload).setJob slot j.notHeld := by
  unfold State.elapseHold
  split
  · rename_i slot found
    split
    · rename_i j hj
      exact .inr ⟨slot, j, _, found, hj, State.modifyJob_of _ (by rw [State.job_releaseHeld, hj])⟩
    · exact .inl rfl
  · exact .inl rfl

theorem State.releaseHeld_setJob_slots (s : State) (payload : List Byte) (slot : Nat) (j : Job) :
    ((s.releaseHeld payload).setJob slot j).slots = s.slots.set slot (some j) := by
  simp [State.slots_releaseHeld]

theorem State.elapseHold_dispatched {s : State} (law : s.Dispatched) : s.elapseHold.Dispatched := by
  rcases s.elapseHold_of with e | ⟨slot, j, payload, -, hj, e⟩
  · rw [e]; exact law
  · rw [e]
    refine State.setJob_dispatched (j := j) (by rw [State.job_releaseHeld, hj])
      ⟨rfl, rfl, rfl, rfl, rfl, rfl⟩ rfl
      (fun h => h.congr ⟨rfl, rfl, rfl, rfl, rfl, rfl⟩ rfl rfl rfl fun _ => ⟨rfl, rfl⟩) ?_
    exact law.congr (State.slots_releaseHeld s payload) (fun p => by rw [State.port_releaseHeld])
      (fun p => by rw [State.port_releaseHeld])

theorem State.elapseHold_heldLaw {s : State} (held : ∃ tag lseq n, s.link.slot = .held tag lseq n)
    (table : s.TableLaw) (law : s.HeldLaw) : s.elapseHold.HeldLaw := by
  rcases s.elapseHold_of with e | ⟨slot, j, payload, found, hj, e⟩
  · rw [e]; exact law
  · rw [e]
    obtain ⟨tag, lseq, n, hs⟩ := held
    have htag : j.tag = tag := by
      obtain ⟨k, hk, ht⟩ := State.job_of_findSlot found
      rw [hj] at hk
      rw [Option.some.inj hk, ht, hs]
      rfl
    have hh : j.replyHeld = true := (law.1 slot j hj).1.2 ⟨lseq, n, by rw [htag]; exact hs⟩
    refine law.sent table hj hh (State.job_of_set (State.releaseHeld_setJob_slots s payload slot _)
      (State.job_lt hj)) (State.releaseHeld_notHeld s payload) fun k hk => ?_
    rw [← Option.some.inj hk]
    rfl

/-! ### A dispatch -/

/-- The record of a job that is dispatched (R16, R92). -/
def Job.dispatched (j : Job) : Job :=
  { j with state := .active, run := { j.run with curStep := 0, curByte := 0 } }

/-- The job leaves the list, is ACTIVE, and the port is RUNNING (R92). -/
theorem State.dispatchJob_eq {s : State} {p : PortId} {slot : Nat} {j : Job}
    (hj : s.job? slot = some j) : s.dispatchJob p slot =
      ((s.leaveReady p slot).setJob slot j.dispatched).setPortState p (.running (Run.begin slot)) := by
  unfold State.dispatchJob
  rw [State.modifyJob_of _ (by rw [State.leaveReady, State.job_setPort, hj])]
  rfl

theorem Job.dispatched_lawful {j : Job} (h : j.Lawful) (ready : j.state = .ready) :
    j.dispatched.Lawful := by
  obtain ⟨standing, runRes, -, -⟩ := h
  refine ⟨?_, ?_, nofun, nofun⟩
  · show j.standing = true ↔ JobState.active ≠ .done
    rw [standing, ready]
    decide
  · show j.runRes = true ↔ j.recurring = true ∧ (JobState.active = .ready ∨ JobState.active = .active)
    rw [runRes, ready]
    simp

theorem State.dispatchJob_dispatched {s : State} {p : PortId} {slot : Nat} {j : Job}
    (hj : s.job? slot = some j) (ready : j.state = .ready) (listed : slot ∈ (s.port p).ready)
    (idle : (s.port p).state = .idle) (law : s.Dispatched) : (s.dispatchJob p slot).Dispatched := by
  have port := (law.listed_port hj listed).2
  rw [State.dispatchJob_eq hj]
  have lists : ∀ q, ((((s.leaveReady p slot).setJob slot j.dispatched).setPortState p
      (.running (Run.begin slot))).port q).ready =
        if q = p then (s.port p).ready.filter (fun x => x != slot) else (s.port q).ready := fun q => by
    by_cases hq : q = p
    · subst hq; simp [State.leaveReady]
    · rw [State.setPortState_port_other _ _ hq, if_neg hq, State.port_setJob, State.leaveReady,
        State.setPort_port_other _ _ hq]
  have runs : ∀ q, ((((s.leaveReady p slot).setJob slot j.dispatched).setPortState p
      (.running (Run.begin slot))).port q).state.runSlot =
        if q = p then some slot else (s.port q).state.runSlot := fun q => by
    by_cases hq : q = p
    · subst hq; rw [State.setPortState_port_same, if_pos rfl]; rfl
    · rw [State.setPortState_port_other _ _ hq, if_neg hq, State.port_setJob, State.leaveReady,
        State.setPort_port_other _ _ hq]
  refine law.replace (slot := slot) (o := some j.dispatched)
    (State.job_of_set (by simp [State.leaveReady]) (State.job_lt hj)) (fun q => ?_) (fun q i hi => ?_)
    (fun q => ?_) (fun q i hi => ?_) (fun q => ?_) fun k hk => ?_
  · rw [lists]
    split
    · exact (law.nodup p).filter _
    · exact law.nodup q
  · rw [lists]
    split
    · rename_i hq; subst hq; simp [hi]
    · rfl
  · rw [lists]
    refine ⟨fun hm => ?_, fun ⟨k, hk, hs, _⟩ => ?_⟩
    · split at hm
      · simp at hm
      · rename_i hq
        have hp := (law.listed_port hj hm).2
        rw [port] at hp
        exact absurd (Option.some.inj hp).symm hq
    · rw [← Option.some.inj hk] at hs
      cases hs
  · rw [runs]
    split
    · rename_i hq
      subst hq
      rw [idle]
      simp [PortState.runSlot, Ne.symm hi]
    · rfl
  · rw [runs]
    split
    · rename_i hq
      subst hq
      exact ⟨fun _ => ⟨_, rfl, rfl, port⟩, fun _ => rfl⟩
    · rename_i hq
      refine ⟨fun hr => absurd hr (law.not_run hj (by rw [ready]; decide) q), fun ⟨k, hk, _, hp⟩ => ?_⟩
      rw [← Option.some.inj hk] at hp
      exact absurd (Option.some.inj (port.symm.trans hp)).symm hq
  · rw [← Option.some.inj hk]
    refine ⟨Job.dispatched_lawful (law.lawful slot j hj) ready, fun _ c => ?_⟩
    rw [show j.dispatched.port = j.port from rfl, port] at c
    cases c

/-- Setting a port's state moves no job and no held reply. -/
theorem State.HeldLaw.portState {s : State} (law : s.HeldLaw) (p : PortId) (x : PortState) :
    (s.setPortState p x).HeldLaw := law.congr (by simp) (Link.HoldsAs.of_slot (by simp))

theorem State.HeldLaw.ready {s : State} (law : s.HeldLaw) (p : PortId) (x : Port) :
    (s.setPort p x).HeldLaw := law.congr (by simp) (Link.HoldsAs.of_slot (by simp))

theorem State.dispatchJob_heldLaw {s : State} {p : PortId} {slot : Nat} {j : Job}
    (hj : s.job? slot = some j) (law : s.HeldLaw) : (s.dispatchJob p slot).HeldLaw := by
  rw [State.dispatchJob_eq hj]
  refine State.HeldLaw.portState (State.setJob_heldLaw (j := j) (k := j.dispatched) ?_ ⟨rfl, rfl, rfl, rfl, rfl, rfl⟩ rfl
    (fun _ => .inr rfl) (law.ready p _)) p _
  rw [State.job_setPort, hj]

/-! ### A job handed back -/

/-- The record of a job that its port hands back (R90, R143). -/
def Job.back (j : Job) (retry : Bool) : Job :=
  { j with
    state := .ready
    retriesLeft := if retry then j.retriesLeft - 1 else j.retriesLeft
    run := { j.run with
      retriesUsed := if retry then j.run.retriesUsed + 1 else j.run.retriesUsed } }

theorem State.handBack_eq {s : State} {p : PortId} {r : Run} {j : Job} (retry : Bool)
    (next : PortState) (hj : s.job? r.slot = some j) : s.handBack p r retry next =
      ((s.setJob r.slot (j.back retry)).joinHead p r.slot).setPortState p next := by
  unfold State.handBack
  rw [State.modifyJob_of _ hj]
  rfl

theorem Job.back_lawful {j : Job} (retry : Bool) (h : j.Lawful) (active : j.state = .active) :
    (j.back retry).Lawful := by
  obtain ⟨standing, runRes, -, -⟩ := h
  refine ⟨?_, ?_, nofun, nofun⟩
  · show j.standing = true ↔ JobState.ready ≠ .done
    rw [standing, active]
    decide
  · show j.runRes = true ↔ j.recurring = true ∧ (JobState.ready = .ready ∨ JobState.ready = .active)
    rw [runRes, active]
    simp

theorem State.handBack_dispatched {s : State} {p : PortId} {r : Run} {retry : Bool} {next : PortState}
    (run : (s.port p).state.runSlot = some r.slot) (idle : next.runSlot = none) (law : s.Dispatched) :
    (s.handBack p r retry next).Dispatched := by
  obtain ⟨j, hj, active, port⟩ := (law.runs p r.slot).1 run
  have notListed := law.not_listed hj (by rw [active]; decide)
  rw [State.handBack_eq retry next hj]
  have lists : ∀ q, ((((s.setJob r.slot (j.back retry)).joinHead p r.slot).setPortState p next).port
      q).ready = if q = p then r.slot :: (s.port p).ready else (s.port q).ready := fun q => by
    by_cases hq : q = p
    · subst hq; simp [State.joinHead]
    · rw [State.setPortState_port_other _ _ hq, if_neg hq, State.joinHead,
        State.setPort_port_other _ _ hq, State.port_setJob]
  have runs : ∀ q, ((((s.setJob r.slot (j.back retry)).joinHead p r.slot).setPortState p next).port
      q).state.runSlot = if q = p then none else (s.port q).state.runSlot := fun q => by
    by_cases hq : q = p
    · subst hq; rw [State.setPortState_port_same, if_pos rfl]; exact idle
    · rw [State.setPortState_port_other _ _ hq, if_neg hq, State.joinHead,
        State.setPort_port_other _ _ hq, State.port_setJob]
  refine law.replace (slot := r.slot) (o := some (j.back retry))
    (State.job_of_set (by simp [State.joinHead]) (State.job_lt hj)) (fun q => ?_) (fun q i hi => ?_)
    (fun q => ?_) (fun q i hi => ?_) (fun q => ?_) fun k hk => ?_
  · rw [lists]
    split
    · exact List.nodup_cons.2 ⟨notListed p, law.nodup p⟩
    · exact law.nodup q
  · rw [lists]
    split
    · rename_i hq; subst hq; simp [hi]
    · rfl
  · rw [lists]
    split
    · rename_i hq
      subst hq
      exact ⟨fun _ => ⟨_, rfl, rfl, port⟩, fun _ => by simp⟩
    · rename_i hq
      refine ⟨fun hm => absurd hm (notListed q), fun ⟨k, hk, _, hp⟩ => ?_⟩
      rw [← Option.some.inj hk] at hp
      exact absurd (Option.some.inj (port.symm.trans hp)).symm hq
  · rw [runs]
    split
    · rename_i hq
      subst hq
      rw [run]
      simp [Ne.symm hi]
    · rfl
  · rw [runs]
    refine ⟨fun hr => ?_, fun ⟨k, hk, hs, _⟩ => ?_⟩
    · split at hr
      · cases hr
      · rename_i hq
        obtain ⟨k, hk, -, hp⟩ := (law.runs q r.slot).1 hr
        rw [← Option.some.inj (hj.symm.trans hk), port] at hp
        exact absurd (Option.some.inj hp).symm hq
    · rw [← Option.some.inj hk] at hs
      cases hs
  · rw [← Option.some.inj hk]
    exact ⟨Job.back_lawful retry (law.lawful r.slot j hj) active, nofun⟩

theorem State.handBack_heldLaw {s : State} (p : PortId) (r : Run) (retry : Bool) (next : PortState)
    (law : s.HeldLaw) : (s.handBack p r retry next).HeldLaw := by
  cases hj : s.job? r.slot with
  | none =>
    unfold State.handBack
    rw [State.modifyJob_none _ hj]
    exact (law.ready p _).portState p next
  | some j =>
    rw [State.handBack_eq retry next hj]
    exact ((State.setJob_heldLaw (k := j.back retry) hj ⟨rfl, rfl, rfl, rfl, rfl, rfl⟩ rfl (fun _ => .inl rfl)
      law).ready p _).portState p next

/-! ### A run that ends -/

/-- What the port writes at a run end leaves of the job's record (R146, R147). -/
def Job.ran (j : Job) (started : Bool) (now : Time) (o : JobOutcome) : Job :=
  { j with run := j.run.ended started now o }

/-- A run that ends: the table takes the end of the run of the record that the port has filled. -/
theorem State.finishRun_leaves {s : State} {r : Run} {j : Job} (o : JobOutcome)
    (hj : s.job? r.slot = some j) :
    ∃ u k, (∀ p next, s.finishRun p r o next = u.setPortState p next) ∧ s.Leaves r.slot j k u ∧
      s.HeldSent u (j.replyHeld && !j.recurring) ∧ ∀ l, k = some l → j.RunClosed l := by
  have hk : (s.setJob r.slot (j.ran r.started s.time o)).job? r.slot
      = some (j.ran r.started s.time o) := State.job_setJob_same _ _ (State.job_lt hj)
  obtain ⟨k, ends, closed⟩ := State.tableRunEnd_leaves hk
  have sent := State.tableRunEnd_sent hk
  refine ⟨_, k, fun p next => ?_, State.Leaves.after (k := j.ran r.started s.time o)
    (s.setJob_jobsMoved _ _) rfl (fun p => by simp) rfl ends, sent, fun l hl => ?_⟩
  · unfold State.finishRun
    rw [State.modifyRecord_of _ hj]
    rfl
  · have c := closed l hl
    exact ⟨⟨c.body.tag, c.body.blocks, c.body.writeLen, c.body.readTotal, c.body.port, c.body.trigger⟩,
      c.state, c.fields, c.res, c.queue, c.held⟩

/-- Where no job is in the run's slot only the port moves. -/
theorem State.finishRun_none {s : State} {r : Run} (p : PortId) (o : JobOutcome) (next : PortState)
    (hj : s.job? r.slot = none) : s.finishRun p r o next = s.setPortState p next := by
  unfold State.finishRun State.modifyRecord
  rw [State.modifyJob_none _ hj]
  simp only [State.tableRunEnd, hj]

theorem State.finishRun_dispatched {s : State} {p : PortId} {r : Run} {o : JobOutcome}
    {next : PortState} (run : (s.port p).state.runSlot = some r.slot) (idle : next.runSlot = none)
    (law : s.Dispatched) : (s.finishRun p r o next).Dispatched := by
  obtain ⟨j, hj, active, -⟩ := (law.runs p r.slot).1 run
  obtain ⟨u, k, eq, ends, -, closed⟩ := State.finishRun_leaves o hj
  have lawful := law.lawful r.slot j hj
  rw [eq]
  refine ends.dispatched_port hj law run idle fun l hl => ⟨(closed l hl).lawful ?_ ?_, ?_⟩
  · rw [lawful.1, active]; decide
  · rw [lawful.2.1, active]; simp
  · rcases (closed l hl).state with ⟨e, -⟩ | ⟨e, -⟩
    · exact .inl e
    · exact .inr e

theorem State.finishRun_heldLaw {s : State} (p : PortId) (r : Run) (o : JobOutcome) (next : PortState)
    (table : s.TableLaw) (law : s.HeldLaw) : (s.finishRun p r o next).HeldLaw := by
  cases hj : s.job? r.slot with
  | none => rw [State.finishRun_none p o next hj]; exact law.portState p next
  | some j =>
    obtain ⟨u, k, eq, ends, sent, closed⟩ := State.finishRun_leaves o hj
    have single : j.replyHeld = false ∨ j.recurring = false := by
      cases hh : j.replyHeld with
      | false => exact .inl rfl
      | true =>
        obtain ⟨now, -⟩ := (law.1 r.slot j hj).2 hh
        exact .inr (by simp [Job.recurring, now])
    have whole : (j.replyHeld && !j.recurring) = j.replyHeld := by
      rcases single with c | c <;> simp [c]
    rw [whole] at sent
    rw [eq]
    exact (ends.heldLaw hj table law sent fun l hl =>
      ⟨(closed l hl).body.tag, (closed l hl).held single⟩).portState p next

end Sys2Proof.Machine
end


section
/-! SUPPORT. Each move keeps each of the five laws that speak of several blocks. -/

namespace Sys2Proof.Machine

/-! ### Which slot a move turns -/

/-- From `s` to `t` one slot at most has a new content: a job with the body of the one before, PENDING
with a run reservation only where that one was. -/
inductive State.Turns (s t : State) : Prop
  | none (slots : t.slots = s.slots)
  | one (slot : Nat) (j : Job) (o : Option Job) (job : s.job? slot = some j)
      (slots : t.slots = s.slots.set slot o)
      (left : ∀ k, o = some k → j.SameBody k ∧
        (k.state = .pending → k.runRes = true → j.state = .pending ∧ j.runRes = true))

theorem State.Turns.tableLaw {s t : State} (h : s.Turns t) (law : s.TableLaw) : t.TableLaw := by
  cases h with
  | none slots => exact law.congr slots
  | one slot j o job slots left => exact law.replace slots fun k hk => ⟨j, job, (left k hk).1⟩

/-- A PENDING job holds no run reservation (R15). -/
def State.PendingFree (s : State) : Prop :=
  ∀ slot j, s.job? slot = some j → j.state = .pending → j.runRes = false

theorem State.Turns.pendingFree {s t : State} (h : s.Turns t) (law : s.PendingFree) :
    t.PendingFree := by
  cases h with
  | none slots => simpa only [State.PendingFree, State.job?, slots] using law
  | one slot j o job slots left =>
    intro i k hk pending
    rw [State.job_of_set slots (State.job_lt job)] at hk
    split at hk
    · by_contra c
      obtain ⟨p, r⟩ := (left k hk).2 pending (by simpa using c)
      rw [law slot j job p] at r
      cases r
    · exact law i k hk pending

theorem State.Leaves.turns {s t : State} {slot : Nat} {j : Job} {o : Option Job}
    (h : s.Leaves slot j o t) (hj : s.job? slot = some j)
    (closed : ∀ k, o = some k → j.SameBody k ∧ (k.state = .pending → k.runRes = false)) : s.Turns t :=
  .one slot j o hj h.slots fun k hk => ⟨(closed k hk).1, fun p r => by
    rw [(closed k hk).2 p] at r; cases r⟩

theorem State.Leaves.turns_none {s t : State} {slot : Nat} {j : Job} (h : s.Leaves slot j none t)
    (hj : s.job? slot = some j) : s.Turns t := h.turns hj (by simp)

theorem State.Armed.turns {s u : State} {slot : Nat} {j k : Job} (h : s.Armed u slot j k) (t : Time)
    (late : Bool) : s.Turns (u.triggerJob slot t late) := by
  cases port : j.port with
  | none =>
    obtain ⟨o, ends, closed, -⟩ := h.completes port t late
    have completed : j.SameBody (k.completes t late) := ⟨h.body.tag, h.body.blocks, h.body.writeLen,
      h.body.readTotal, h.body.port, h.body.trigger⟩
    exact ends.turns h.job fun l hl => ⟨completed.trans (closed l hl).body, (closed l hl).queue⟩
  | some p =>
    refine .one slot j _ h.job (h.triggers port t late).1 fun l hl => ?_
    rw [← Option.some.inj hl]
    exact ⟨⟨h.body.tag, h.body.blocks, h.body.writeLen, h.body.readTotal, h.body.port,
      h.body.trigger⟩, fun c => by cases c⟩

/-- A job whose new record is not PENDING with a run reservation. -/
theorem State.turns_of_set {s t : State} {slot : Nat} {j k : Job} (hj : s.job? slot = some j)
    (slots : t.slots = s.slots.set slot (some k)) (body : j.SameBody k)
    (pending : k.state = .pending → k.runRes = true → j.state = .pending ∧ j.runRes = true) :
    s.Turns t := by
  refine .one slot j _ hj slots fun l hl => ?_
  rw [← Option.some.inj hl]
  exact ⟨body, pending⟩

theorem Move.turns {G : Prop} {s t : State} (h : Move G s t) : s.Turns t := by
  cases h with
  | tick w ahead => exact .none rfl
  | pins x => exact .none rfl
  | pool m wf => exact .none rfl
  | port p x kept mode => exact .none (by simp)
  | job slot j k hj kept =>
    exact State.turns_of_set hj rfl kept.body fun p r => by
      rw [← kept.state, ← kept.runRes]; exact ⟨p, r⟩
  | line n l notice edge capture => exact .none rfl
  | reports q owed queued reserved => exact .none rfl
  | ask src => exact .none (s.askNotice_beside src).slots
  | clear n => exact .none (s.clearCapture_beside n).slots
  | removed k => exact .none (s.removed_beside k).slots
  | trigger slot j t late hj pending single =>
    exact (State.armed_single hj pending single).turns t late
  | grant slot j t hj pending recurring room =>
    exact (State.armed_grant hj pending recurring).turns t false
  | endWithoutRun slot j o hj waits => exact (State.endWithoutRun_leaves o hj).turns_none hj
  | cancelWaiting slot j hj waits => exact (State.cancelWaiting_leaves hj).turns_none hj
  | free slot j hj done => exact (State.freeJob_leaves hj).turns_none hj
  | dispatch p slot j hj ready listed idle =>
    rw [State.dispatchJob_eq hj]
    exact State.turns_of_set (k := j.dispatched) hj (by simp [State.leaveReady])
      ⟨rfl, rfl, rfl, rfl, rfl, rfl⟩ (fun c => by cases c)
  | finish p r o next run idle =>
    cases hj : s.job? r.slot with
    | none => rw [State.finishRun_none p o next hj]; exact .none (by simp)
    | some j =>
      obtain ⟨u, k, eq, ends, -, closed⟩ := State.finishRun_leaves o hj
      rw [eq]
      refine .one r.slot j k hj (by simp [ends.slots]) fun l hl => ⟨(closed l hl).body, fun p r => ?_⟩
      rw [(closed l hl).queue p] at r; cases r
  | handBack p r retry next run idle =>
    cases hj : s.job? r.slot with
    | none =>
      unfold State.handBack
      rw [State.modifyJob_none _ hj]
      exact .none (by simp [State.joinHead])
    | some j =>
      rw [State.handBack_eq retry next hj]
      exact State.turns_of_set (k := j.back retry) hj (by simp [State.joinHead])
        ⟨rfl, rfl, rfl, rfl, rfl, rfl⟩ (fun c => by cases c)
  | elapse held =>
    rcases s.elapseHold_of with e | ⟨slot, j, payload, -, hj, e⟩
    · rw [e]; exact .none rfl
    · rw [e]
      exact State.turns_of_set (k := j.notHeld) hj (State.releaseHeld_setJob_slots s payload slot _)
        ⟨rfl, rfl, rfl, rfl, rfl, rfl⟩ fun p r => ⟨p, r⟩

/-! ### Law by law -/

theorem Move.tableLaw {G : Prop} {s t : State} (h : Move G s t) : s.TableLaw → t.TableLaw := h.turns.tableLaw

theorem Move.dispatched {G : Prop} {s t : State} (h : Move G s t) (law : s.Dispatched) : t.Dispatched := by
  cases h with
  | tick w ahead => exact law.congr rfl (fun p => by simp) (fun p => by simp)
  | pins x => exact law.congr rfl (fun p => by cases p <;> rfl) (fun p => by cases p <;> rfl)
  | pool m wf => exact law.congr rfl (fun p => by simp) (fun p => by simp)
  | port p x kept mode => exact (State.setPort_beside kept).dispatched law
  | job slot j k hj kept => exact State.setJob_dispatched hj kept.body kept.state kept.lawful law
  | line n l notice edge capture => exact law.congr rfl (fun p => by simp) (fun p => by simp)
  | reports q owed queued reserved => exact law.congr rfl (fun p => by simp) (fun p => by simp)
  | ask src => exact (s.askNotice_beside src).dispatched law
  | clear n => exact (s.clearCapture_beside n).dispatched law
  | removed k => exact (s.removed_beside k).dispatched law
  | trigger slot j t late hj pending single =>
    exact (State.armed_single hj pending single).dispatched t late law
  | grant slot j t hj pending recurring room =>
    exact (State.armed_grant hj pending recurring).dispatched t false law
  | endWithoutRun slot j o hj waits =>
    exact (State.endWithoutRun_leaves o hj).dispatched hj law (by rcases waits with e | e <;> simp [e])
      (.inl rfl) (by simp)
  | cancelWaiting slot j hj waits =>
    exact (State.cancelWaiting_leaves hj).dispatched hj law (by rcases waits with e | e <;> simp [e])
      (.inl rfl) (by simp)
  | free slot j hj done =>
    exact (State.freeJob_leaves hj).dispatched hj law (by simp [done]) (.inl rfl) (by simp)
  | dispatch p slot j hj ready listed idle =>
    exact State.dispatchJob_dispatched hj ready listed idle law
  | finish p r o next run idle => exact State.finishRun_dispatched run idle law
  | handBack p r retry next run idle => exact State.handBack_dispatched run idle law
  | elapse held => exact State.elapseHold_dispatched law

theorem Move.heldLaw {G : Prop} {s t : State} (h : Move G s t) (table : s.TableLaw) (law : s.HeldLaw) :
    t.HeldLaw := by
  cases h with
  | tick w ahead => exact law.congr rfl (Link.HoldsAs.refl _)
  | pins x => exact law.congr rfl (Link.HoldsAs.refl _)
  | pool m wf => exact law.congr rfl (Link.HoldsAs.refl _)
  | port p x kept mode => exact (State.setPort_beside kept).heldLaw law
  | job slot j k hj kept =>
    exact State.setJob_heldLaw hj kept.body kept.replyHeld (fun c => by rwa [kept.state]) law
  | line n l notice edge capture => exact law.congr rfl (Link.HoldsAs.refl _)
  | reports q owed queued reserved => exact law.congr rfl (Link.HoldsAs.refl _)
  | ask src => exact (s.askNotice_beside src).heldLaw law
  | clear n => exact (s.clearCapture_beside n).heldLaw law
  | removed k => exact (s.removed_beside k).heldLaw law
  | trigger slot j t late hj pending single =>
    exact (State.armed_single hj pending single).heldLaw t late table law
  | grant slot j t hj pending recurring room =>
    exact (State.armed_grant hj pending recurring).heldLaw t false table law
  | endWithoutRun slot j o hj waits =>
    exact (State.endWithoutRun_leaves o hj).heldLaw hj table law (State.endWithoutRun_sent o hj) (by simp)
  | cancelWaiting slot j hj waits =>
    exact (State.cancelWaiting_leaves hj).heldLaw hj table law (State.cancelWaiting_sent hj) (by simp)
  | free slot j hj done =>
    refine (State.freeJob_leaves hj).heldLaw hj table law ?_ (by simp)
    have notHeld : j.replyHeld = false := by
      by_contra c
      obtain ⟨-, -, state⟩ := (law.1 slot j hj).2 (by simpa using c)
      rw [done] at state
      rcases state with e | e <;> cases e
    rw [notHeld]
    exact State.freeJob_link s slot
  | dispatch p slot j hj ready listed idle => exact State.dispatchJob_heldLaw hj law
  | finish p r o next run idle => exact State.finishRun_heldLaw p r o next table law
  | handBack p r retry next run idle => exact State.handBack_heldLaw p r retry next law
  | elapse held => exact State.elapseHold_heldLaw held table law

theorem State.joinTail_noticeLaw {s : State} (p : PortId) (slot : Nat) (h : s.NoticeLaw) :
    (s.joinTail p slot).NoticeLaw := State.setPort_noticeLaw rfl h

theorem State.setPortState_noticeLaw {s : State} (p : PortId) (x : PortState) (h : s.NoticeLaw) :
    (s.setPortState p x).NoticeLaw := State.setPort_noticeLaw rfl h

theorem State.triggerJob_noticeLaw {s : State} (slot : Nat) (t : Time) (late : Bool)
    (h : s.NoticeLaw) : (s.triggerJob slot t late).NoticeLaw := by
  unfold State.triggerJob
  split
  · exact h
  · split
    · split
      · exact State.joinTail_noticeLaw _ _ (State.setJob_noticeLaw slot _ h)
      · exact State.tableRunEnd_noticeLaw slot (State.setJob_noticeLaw slot _ h)
    · exact h

theorem State.grantRun_noticeLaw {s : State} (slot : Nat) (h : s.NoticeLaw) :
    (s.grantRun slot).NoticeLaw := by
  unfold State.grantRun
  split
  · exact State.setReports_noticeLaw rfl rfl (State.setJob_noticeLaw slot _ h)
  · exact h

theorem State.elapseHold_noticeLaw {s : State} (h : s.NoticeLaw) : s.elapseHold.NoticeLaw := by
  rcases s.elapseHold_of with e | ⟨slot, j, payload, -, -, e⟩
  · rw [e]; exact h
  · rw [e, State.releaseHeld_eq]
    exact State.setJob_noticeLaw slot _ (State.setLink_noticeLaw _ h)

theorem Move.noticeLaw {G : Prop} {s t : State} (h : Move G s t) (law : s.NoticeLaw) : t.NoticeLaw := by
  cases h with
  | tick w ahead =>
    exact law.congr rfl (fun src => by cases src <;> simp [State.noticeState]) rfl rfl
  | pins x =>
    refine law.congr rfl (fun src => ?_) rfl rfl
    cases src with
    | line n => rfl
    | port p => cases p <;> rfl
  | pool m wf =>
    exact law.congr rfl (fun src => by cases src <;> simp [State.noticeState]) rfl rfl
  | port p x kept mode => exact State.setPort_noticeLaw kept.notice law
  | job slot j k hj kept => exact State.setJob_noticeLaw slot k law
  | line n l notice edge capture => exact State.setLine_noticeLaw notice law
  | reports q owed queued reserved => exact State.setReports_noticeLaw owed queued law
  | ask src => exact State.askNotice_noticeLaw src law
  | clear n => exact State.clearCapture_noticeLaw n law
  | removed k => exact State.removed_noticeLaw k law
  | trigger slot j t late => exact State.triggerJob_noticeLaw slot t late law
  | grant slot j t => exact State.triggerJob_noticeLaw slot t false (State.grantRun_noticeLaw slot law)
  | endWithoutRun slot j o => exact State.endWithoutRun_noticeLaw slot o law
  | cancelWaiting slot j => exact State.cancelWaiting_noticeLaw slot law
  | free slot j => exact State.freeJob_noticeLaw slot law
  | dispatch p slot =>
    exact State.setPortState_noticeLaw p _ (State.modifyJob_noticeLaw slot _
      (State.setPort_noticeLaw rfl law))
  | finish p r o next =>
    exact State.setPortState_noticeLaw p next (State.tableRunEnd_noticeLaw r.slot
      (State.modifyJob_noticeLaw r.slot _ law))
  | handBack p r retry next =>
    exact State.setPortState_noticeLaw p next (State.setPort_noticeLaw rfl
      (State.modifyJob_noticeLaw r.slot _ law))
  | elapse => exact State.elapseHold_noticeLaw law

theorem State.triggerJob_queueHolds {s : State} (slot : Nat) (t : Time) (late : Bool)
    (h : s.QueueHolds) : (s.triggerJob slot t late).QueueHolds := by
  cases hj : s.job? slot with
  | none => simpa only [State.triggerJob, hj] using h
  | some j =>
    by_cases pending : j.state = .pending
    · cases port : j.port with
      | none =>
        rw [State.triggerJob_marker t late hj pending port]
        exact State.tableRunEnd_queueHolds slot (State.setJob_queueHolds hj rfl h)
      | some p =>
        rw [State.triggerJob_port t late hj pending port]
        exact State.setPort_queueHolds p _ (State.setJob_queueHolds hj rfl h)
    · rw [State.triggerJob_skip t late hj pending]; exact h

theorem State.elapseHold_queueHolds {s : State} (h : s.QueueHolds) : s.elapseHold.QueueHolds := by
  rcases s.elapseHold_of with e | ⟨slot, j, payload, -, hj, e⟩
  · rw [e]; exact h
  · rw [e]
    exact State.setJob_queueHolds (j := j) (k := j.notHeld) (by rw [State.job_releaseHeld, hj]) rfl
      (State.releaseHeld_queueHolds payload h)

theorem Move.queueHolds {G : Prop} {s t : State} (h : Move G s t) (free : s.PendingFree) (law : s.QueueHolds) :
    t.QueueHolds := by
  cases h with
  | tick w ahead => exact law.congr rfl rfl rfl rfl
  | pins x => exact law.congr rfl rfl rfl rfl
  | pool m wf => exact law.congr rfl rfl rfl rfl
  | port p x kept mode => exact State.setPort_queueHolds p x law
  | job slot j k hj kept =>
    exact State.setJob_queueHolds hj (by simp only [Job.reservations, kept.standing, kept.runRes]) law
  | line n l notice edge capture => exact law.congr rfl rfl rfl rfl
  | reports q owed queued reserved => exact law.congr rfl queued reserved owed
  | ask src => exact State.askNotice_queueHolds src law
  | clear n => exact State.clearCapture_queueHolds n law
  | removed k => exact State.removed_queueHolds k law
  | trigger slot j t late => exact State.triggerJob_queueHolds slot t late law
  | grant slot j t hj pending recurring room =>
    exact State.triggerJob_queueHolds slot t false
      (State.grantRun_queueHolds hj (free slot j hj pending) room law)
  | endWithoutRun slot j o => exact State.endWithoutRun_queueHolds slot o law
  | cancelWaiting slot j => exact State.cancelWaiting_queueHolds slot law
  | free slot j => exact State.freeJob_queueHolds slot law
  | dispatch p slot =>
    exact State.setPort_queueHolds p _ (State.modifyJob_queueHolds slot (fun _ => rfl)
      (State.setPort_queueHolds p _ law))
  | finish p r o next =>
    exact State.setPort_queueHolds p _ (State.tableRunEnd_queueHolds r.slot
      (State.modifyJob_queueHolds r.slot (fun _ => rfl) law))
  | handBack p r retry next =>
    exact State.setPort_queueHolds p _ (State.setPort_queueHolds p _
      (State.modifyJob_queueHolds r.slot (fun _ => rfl) law))
  | elapse => exact State.elapseHold_queueHolds law

theorem Move.queueLaw {G : Prop} {s t : State} (h : Move G s t) (law : s.QueueLaw) : t.QueueLaw := by
  obtain ⟨holds, free⟩ := (State.queueLaw_iff s).1 law
  exact (State.queueLaw_iff t).2 ⟨h.queueHolds free holds, h.turns.pendingFree free⟩

theorem Move.dispatchLaw {G : Prop} {s t : State} (h : Move G s t) (law : s.DispatchLaw) : t.DispatchLaw :=
  (State.dispatchLaw_iff t).2 (h.dispatched ((State.dispatchLaw_iff s).1 law))

/-! ### Sequences of moves -/

/-- From `s` to `t` every law that speaks of several blocks is kept. -/
structure State.LawsKept (s t : State) : Prop where
  table    : s.TableLaw → t.TableLaw
  queue    : s.QueueLaw → t.QueueLaw
  notice   : s.NoticeLaw → t.NoticeLaw
  dispatch : s.DispatchLaw → t.DispatchLaw
  held     : s.TableLaw → s.HeldLaw → t.HeldLaw

theorem State.LawsKept.refl (s : State) : s.LawsKept s := ⟨id, id, id, id, fun _ => id⟩

theorem State.LawsKept.trans {s t u : State} (h : s.LawsKept t) (k : t.LawsKept u) : s.LawsKept u :=
  ⟨k.table ∘ h.table, k.queue ∘ h.queue, k.notice ∘ h.notice, k.dispatch ∘ h.dispatch,
    fun table held => k.held (h.table table) (h.held table held)⟩

theorem Move.lawsKept {G : Prop} {s t : State} (h : Move G s t) : s.LawsKept t :=
  ⟨h.tableLaw, h.queueLaw, h.noticeLaw, h.dispatchLaw, h.heldLaw⟩

theorem Moves.lawsKept {G : Prop} {s t : State} (h : Moves G s t) : s.LawsKept t :=
  Moves.keep (P := s.LawsKept) (fun m h => h.trans m.lawsKept) h (State.LawsKept.refl s)

end Sys2Proof.Machine
end


section
/-! SUPPORT. What a port does by itself is a sequence of moves: the run on the wire, recovery, settle and
presence (chapters 6 and 7). -/

namespace Sys2Proof.Machine

variable {G : Prop}

/-! ### Moves of one port -/

/-- A port whose state, lines and bits stand. -/
theorem Port.kept_of_same {x y : Port} (ready : y.ready = x.ready) (notice : y.notice = x.notice)
    (state : y.state = x.state) (drive : y.drive = x.drive) (pulls : y.pulls = x.pulls) :
    x.Kept G y where
  ready := ready
  notice := notice
  runs := by rw [state]
  drive := by simp only [Port.DriveLawful, state, drive]; exact id
  bits _ := by simp only [Port.BitLawful, state, pulls]; exact id

/-- Nothing of a port has moved that a law but its own reads. -/
theorem State.setPort_moves (s : State) {p : PortId} {x : Port} (kept : (s.port p).Kept G x)
    (settings : x.settings = (s.port p).settings) : Moves G s (s.setPort p x) :=
  (Move.port s p x kept (.inl (by rw [settings]))).moves

theorem State.trackStart_moves (s : State) (p : PortId) : Moves G s (s.trackStart p) := by
  unfold State.trackStart
  split
  · exact s.setPort_moves (Port.kept_of_same rfl rfl rfl rfl rfl) rfl
  · exact Moves.refl s

theorem State.trackFree_moves (s : State) (p : PortId) : Moves G s (s.trackFree p) := by
  unfold State.trackFree
  split
  · exact s.setPort_moves (Port.kept_of_same rfl rfl rfl rfl rfl) rfl
  · exact Moves.refl s

theorem State.sendByte_moves (s : State) (p : PortId) (r : Run) : Moves G s (s.sendByte p r) := by
  unfold State.sendByte
  split
  · exact s.setPort_moves (Port.kept_of_same rfl rfl rfl rfl rfl) rfl
  · exact Moves.refl s

theorem State.giveNinth_moves (s : State) (p : PortId) (nak : Bool) : Moves G s (s.giveNinth p nak) :=
  s.setPort_moves (Port.kept_of_same rfl rfl rfl rfl rfl) rfl

theorem State.readLines_moves (s : State) (p : PortId) (l : Levels) : Moves G s (s.readLines p l) := by
  cases p <;> exact (Move.pins s _).moves

theorem State.askNotice_moves (s : State) (src : Source) : Moves G s (s.askNotice src) :=
  (Move.ask s src).moves

theorem State.modifyRecord_moves (s : State) (slot : Nat) (f : RunRecord → RunRecord) :
    Moves G s (s.modifyRecord slot f) := by
  cases hj : s.job? slot with
  | none => unfold State.modifyRecord; rw [State.modifyJob_none _ hj]
  | some j =>
    rw [State.modifyRecord_of f hj]
    exact (Move.job s slot j { j with run := f j.run } hj
      ⟨⟨rfl, rfl, rfl, rfl, rfl, rfl⟩, rfl, rfl, rfl, rfl, fun _ => ⟨rfl, rfl⟩⟩).moves

theorem State.noteFail_moves (s : State) (r : Run) : Moves G s (s.noteFail r) := by
  unfold State.noteFail
  split
  · exact Moves.refl s
  · exact s.modifyRecord_moves r.slot _

/-! ### A port that runs a job -/

/-- Port `p` runs the job of run `r`, which is in no byte where `G` holds. -/
def State.AtRun (G : Prop) (s : State) (p : PortId) (r : Run) : Prop :=
  (s.port p).state.runSlot = some r.slot ∧ (G → r.bits = [])

/-- Port `p` runs no job. -/
def State.NoRun (s : State) (p : PortId) : Prop := (s.port p).state.runSlot = none

theorem State.AtRun.congr {s t : State} {p : PortId} {r r' : Run} (h : s.AtRun G p r)
    (run : (t.port p).state.runSlot = (s.port p).state.runSlot) (slot : r'.slot = r.slot := by rfl)
    (bits : r'.bits = r.bits := by rfl) : t.AtRun G p r' :=
  ⟨by rw [run, slot]; exact h.1, fun g => by rw [bits]; exact h.2 g⟩

theorem State.modifyRecord_port (s : State) (slot : Nat) (f : RunRecord → RunRecord) (p : PortId) :
    (s.modifyRecord slot f).port p = s.port p := by
  unfold State.modifyRecord State.modifyJob
  split <;> simp

theorem State.AtRun.modifyRecord {s : State} {p : PortId} {r : Run} (h : s.AtRun G p r) (slot : Nat)
    (f : RunRecord → RunRecord) : (s.modifyRecord slot f).AtRun G p r :=
  h.congr (by rw [State.modifyRecord_port])

theorem State.AtRun.noteFail {s : State} {p : PortId} {r r' : Run} (h : s.AtRun G p r) :
    (s.noteFail r').AtRun G p r := by
  unfold State.noteFail
  split
  · exact h
  · exact h.modifyRecord _ _

theorem State.AtRun.trackStart {s : State} {p : PortId} {r : Run} (h : s.AtRun G p r) :
    (s.trackStart p).AtRun G p r := by
  refine h.congr ?_
  unfold State.trackStart
  split <;> simp

theorem State.AtRun.trackFree {s : State} {p : PortId} {r : Run} (h : s.AtRun G p r) :
    (s.trackFree p).AtRun G p r := by
  refine h.congr ?_
  unfold State.trackFree
  split <;> simp

theorem State.AtRun.sendByte {s : State} {p : PortId} {r : Run} (h : s.AtRun G p r) (r' : Run) :
    (s.sendByte p r').AtRun G p r := by
  refine h.congr ?_
  unfold State.sendByte
  split <;> simp

theorem State.AtRun.giveNinth {s : State} {p : PortId} {r : Run} (h : s.AtRun G p r) (nak : Bool) :
    (s.giveNinth p nak).AtRun G p r := h.congr (by simp [State.giveNinth])

theorem State.AtRun.readLines {s : State} {p : PortId} {r : Run} (h : s.AtRun G p r) (q : PortId)
    (l : Levels) : (s.readLines q l).AtRun G p r :=
  h.congr (by cases q <;> cases p <;> rfl)

/-- A port that runs a job goes on at another place of its run. -/
theorem State.AtRun.setPort_moves {s : State} {p : PortId} {r r' : Run} {x : Port}
    (h : s.AtRun G p r) (state : x.state = .running r') (slot : r'.slot = r.slot)
    (bits : r'.bits = r.bits) (drive : x.DriveLawful) (ready : x.ready = (s.port p).ready)
    (notice : x.notice = (s.port p).notice) (settings : x.settings = (s.port p).settings) :
    Moves G s (s.setPort p x) := by
  refine s.setPort_moves ⟨ready, notice, ?_, fun _ => drive, fun g _ => ?_⟩ settings
  · rw [state, h.1, ← slot]; rfl
  · refine Port.bitLawful_of_noBits fun r1 hr => ?_
    rw [state] at hr
    cases hr
    rw [bits, h.2 g]

theorem State.AtRun.setRun_moves {s : State} {p : PortId} {r r' : Run} (h : s.AtRun G p r)
    (slot : r'.slot = r.slot := by rfl) (bits : r'.bits = r.bits := by rfl) :
    Moves G s (s.setRun p r') :=
  h.setPort_moves rfl slot bits (Port.enter_driveLawful (s.port p) (.running r')) rfl rfl rfl

theorem State.AtRun.setRun {s : State} {p : PortId} {r r' : Run} (h : s.AtRun G p r)
    (bits : r'.bits = r.bits := by rfl) : (s.setRun p r').AtRun G p r' :=
  ⟨by simp [State.setRun, PortState.runSlot], fun g => by rw [bits, h.2 g]⟩

theorem State.AtRun.releaseBus_moves {s : State} {p : PortId} {r r' : Run} (h : s.AtRun G p r)
    (slot : r'.slot = r.slot := by rfl) (bits : r'.bits = r.bits := by rfl) :
    Moves G s (s.releaseBus p r') :=
  h.setPort_moves rfl slot bits (fun _ _ => rfl) rfl rfl rfl

theorem State.AtRun.releaseBus {s : State} {p : PortId} {r r' : Run} (h : s.AtRun G p r)
    (bits : r'.bits = r.bits := by rfl) : (s.releaseBus p r').AtRun G p r' :=
  ⟨by simp [State.releaseBus, PortState.runSlot], fun g => by rw [bits, h.2 g]⟩

theorem State.AtRun.finishRun_moves {G' : Prop} {s : State} {p : PortId} {r : Run} (h : s.AtRun G' p r)
    (o : JobOutcome) (next : PortState) (idle : next.runSlot = none := by rfl) :
    Moves G s (s.finishRun p r o next) := (Move.finish s p r o next h.1 idle).moves

theorem State.AtRun.handBack_moves {G' : Prop} {s : State} {p : PortId} {r : Run} (h : s.AtRun G' p r)
    (retry : Bool) (next : PortState) (idle : next.runSlot = none := by rfl) :
    Moves G s (s.handBack p r retry next) := (Move.handBack s p r retry next h.1 idle).moves

theorem State.AtRun.stopHere_moves {s : State} {p : PortId} {r : Run} (h : s.AtRun G p r) :
    Moves G s (s.stopHere p r) := by
  have h1 := h.modifyRecord r.slot RunRecord.failHere
  refine (s.modifyRecord_moves r.slot RunRecord.failHere).trans ?_
  unfold State.stopHere
  dsimp only
  split
  · exact h1.setRun_moves
  · exact h1.finishRun_moves .cancelled .idle

theorem takeSteps_moves (p : PortId) (r : Run) : ∀ (steps : List Step) (i : Nat) (s : State),
    s.AtRun G p r → Moves G s (takeSteps p r i steps s)
  | [], _, s, h => by
    unfold takeSteps
    dsimp only
    have h1 := h.modifyRecord r.slot fun rec => { rec with curByte := 0 }
    refine (s.modifyRecord_moves r.slot fun rec => { rec with curByte := 0 }).trans ?_
    split
    · exact h1.stopHere_moves
    · split
      · exact h1.setRun_moves
      · exact h1.finishRun_moves .done .idle
  | st :: rest, i, s, h => by
    unfold takeSteps
    dsimp only
    have h1 := h.modifyRecord r.slot fun rec => { rec with curStep := i, curByte := 0 }
    refine (s.modifyRecord_moves r.slot fun rec => { rec with curStep := i, curByte := 0 }).trans ?_
    split
    · exact h1.stopHere_moves
    · split
      · exact h1.setRun_moves
      · exact h1.setRun_moves
      · exact h1.setRun_moves
      · exact h1.setRun_moves
      · split
        · exact h1.setRun_moves
        · exact takeSteps_moves p r rest (i + 1) _ h1
      · exact h1.setRun_moves
      · split
        · exact h1.setRun_moves
        · exact h1.setRun_moves
      · exact (State.modifyRecord_moves _ r.slot _).trans
          (takeSteps_moves p r rest (i + 1) _ (h1.modifyRecord r.slot _))

theorem State.AtRun.nextStep_moves {s : State} {p : PortId} {r : Run} (h : s.AtRun G p r) :
    Moves G s (s.nextStep p r) := by
  unfold State.nextStep
  split
  · exact takeSteps_moves p r _ _ s h
  · exact Moves.refl s

theorem State.AtRun.beginRun_moves {s : State} {p : PortId} {r : Run} (h : s.AtRun G p r) :
    Moves G s (s.beginRun p r) := by
  unfold State.beginRun
  split
  · exact (s.modifyRecord_moves r.slot _).trans ((h.modifyRecord r.slot _).finishRun_moves .cancelled .idle)
  · split
    · exact h.handBack_moves false (.recovering .run .release)
    · split
      · exact takeSteps_moves p r _ _ s h
      · exact Moves.refl s

theorem State.AtRun.completeStart_moves {s : State} {p : PortId} {r : Run} (h : s.AtRun G p r)
    (st : Step) : Moves G s (s.completeStart p r st) := by
  unfold State.completeStart
  dsimp only
  have record : ∀ u : State, u.AtRun G p r → Moves G s u →
      Moves G s (if ((u.trackStart p).setRun p
          { r with held := true, started := true, phase := st.addressPhase }).stopping r.slot then
        ((u.trackStart p).setRun p { r with held := true, started := true, phase := st.addressPhase }).stopHere
          p { r with held := true, started := true, phase := st.addressPhase }
        else (u.trackStart p).setRun p { r with held := true, started := true, phase := st.addressPhase }) := by
    intro u hu m
    refine (m.trans (u.trackStart_moves p)).trans ((hu.trackStart.setRun_moves
      (r' := { r with held := true, started := true, phase := st.addressPhase })).trans ?_)
    split
    · exact (hu.trackStart.setRun).stopHere_moves
    · exact Moves.refl _
  split
  · exact record s h (Moves.refl s)
  · exact record _ (h.modifyRecord r.slot _) (s.modifyRecord_moves r.slot _)

theorem State.AtRun.failByNak_moves {s : State} {p : PortId} {r : Run} (h : s.AtRun G p r)
    (o : JobOutcome) : Moves G s (s.failByNak p r o) :=
  (s.modifyRecord_moves r.slot _).trans (h.modifyRecord r.slot _).setRun_moves

theorem State.AtRun.nextByte_moves {s : State} {p : PortId} {r : Run} (h : s.AtRun G p r) :
    Moves G s (s.nextByte p r) := by
  unfold State.nextByte
  split
  · exact (s.modifyRecord_moves r.slot _).trans (h.modifyRecord r.slot _).setRun_moves
  · exact h.nextStep_moves

theorem State.AtRun.addressSent_moves {s : State} {p : PortId} {r : Run} (h : s.AtRun G p r)
    (nak : Bool) : Moves G s (State.addressSent p s r nak) := by
  have h1 : (s.sendByte p r).AtRun G p { r with committed := r.committed || !nak } :=
    (h.sendByte r).congr rfl
  refine (s.sendByte_moves p r).trans ?_
  unfold State.addressSent
  dsimp only
  split
  · exact h1.stopHere_moves
  · split
    · exact h1.failByNak_moves .absent
    · exact h1.nextStep_moves

theorem State.AtRun.attemptSent_moves {s : State} {p : PortId} {r : Run} (h : s.AtRun G p r)
    (nak : Bool) : Moves G s (State.attemptSent p s r nak) := by
  have h1 : (s.sendByte p r).AtRun G p { r with committed := r.committed || !nak } :=
    (h.sendByte r).congr rfl
  refine (s.sendByte_moves p r).trans ?_
  unfold State.attemptSent
  dsimp only
  split
  · exact h1.stopHere_moves
  · split
    · exact h1.nextStep_moves
    · split
      · exact h1.setRun_moves
      · exact h1.failByNak_moves .pollLimit

theorem State.AtRun.dataSent_moves {s : State} {p : PortId} {r : Run} (h : s.AtRun G p r)
    (nak : Bool) : Moves G s (State.dataSent p s r nak) := by
  have h1 : (s.sendByte p r).AtRun G p
      (if nak then r else { r with committed := true, writeCursor := r.writeCursor + 1 }) :=
    (h.sendByte r).congr rfl (by split <;> rfl) (by split <;> rfl)
  refine (s.sendByte_moves p r).trans ?_
  unfold State.dataSent
  dsimp only
  split
  · exact h1.stopHere_moves
  · cases nak with
    | true => exact h1.failByNak_moves .refused
    | false => exact h1.nextByte_moves

theorem State.AtRun.dataReceived_moves {s : State} {p : PortId} {r : Run} (h : s.AtRun G p r)
    (nak : Bool) : Moves G s (State.dataReceived p s r nak) := by
  unfold State.dataReceived
  dsimp only
  generalize (s.job? r.slot).any Job.readNak = naked
  have h1 : (s.giveNinth p naked).AtRun G p { r with committed := r.committed || !naked } :=
    (h.giveNinth naked).congr rfl
  refine (s.giveNinth_moves p naked).trans ?_
  split
  · exact h1.stopHere_moves
  · exact h1.nextByte_moves

theorem State.AtRun.completeStop_moves {s : State} {p : PortId} {r : Run} (h : s.AtRun G p r)
    (after : AfterStop) : Moves G s (s.completeStop p r after) := by
  have h1 : ((s.trackFree p).releaseBus p { r with held := false }).AtRun G p { r with held := false } :=
    h.trackFree.releaseBus
  refine (s.trackFree_moves p).trans
    ((h.trackFree.releaseBus_moves (r' := { r with held := false })).trans ?_)
  unfold State.completeStop
  dsimp only
  split
  · exact (State.noteFail_moves _ r).trans (h1.noteFail.finishRun_moves .cancelled .idle)
  · cases after with
    | step => exact h1.nextStep_moves
    | pauseFree => exact h1.setRun_moves
    | pollGap => exact h1.setRun_moves
    | implied => exact h1.finishRun_moves .done .idle
    | failed => exact h1.finishRun_moves _ .idle
    | stopping => exact h1.finishRun_moves .cancelled .idle

theorem State.AtRun.loseArbitration_moves {G' : Prop} {s : State} {p : PortId} {r : Run} (h : s.AtRun G' p r) :
    Moves G s (s.loseArbitration p r) := by
  have fail (o : JobOutcome) : Moves G s ((s.noteFail r).finishRun p r o .idle) :=
    (s.noteFail_moves r).trans (h.noteFail.finishRun_moves o .idle)
  unfold State.loseArbitration
  split
  · exact Moves.refl s
  · split
    · exact fail .cancelled
    · split
      · exact h.finishRun_moves _ .idle
      · split
        · exact fail .arbLostPartial
        · split
          · exact h.handBack_moves true .idle
          · exact fail .arbLost

theorem State.AtRun.endPollGap_moves {s : State} {p : PortId} {r : Run} (h : s.AtRun G p r) :
    Moves G s (s.endPollGap p r) := h.setRun_moves

/-! ### A port that runs no job -/

theorem State.NoRun.setPortState_moves {s : State} {p : PortId} (h : s.NoRun p) (x : PortState)
    (idle : x.runSlot = none := by rfl) : Moves G s (s.setPortState p x) :=
  s.setPort_moves (x := (s.port p).enter x) ⟨rfl, rfl, idle.trans h.symm,
    fun _ => Port.enter_driveLawful _ x, fun _ _ => Port.bitLawful_of_idle idle⟩ rfl

theorem State.noRun_setPortState (s : State) (p : PortId) {x : PortState}
    (idle : x.runSlot = none := by rfl) : (s.setPortState p x).NoRun p := by
  simp [State.NoRun, idle]

theorem State.NoRun.enterDetached_moves {s : State} {p : PortId} (h : s.NoRun p) :
    Moves G s (s.enterDetached p) := (h.setPortState_moves .detached).trans (State.askNotice_moves _ _)

theorem State.NoRun.enterIdle_moves {s : State} {p : PortId} (h : s.NoRun p) (ask : Bool) :
    Moves G s (s.enterIdle p ask) := by
  unfold State.enterIdle
  split
  · exact (h.setPortState_moves .idle).trans (State.askNotice_moves _ _)
  · exact h.setPortState_moves .idle

theorem State.NoRun.beginRecovery_moves {s : State} {p : PortId} (h : s.NoRun p) (origin : Origin) :
    Moves G s (s.beginRecovery p origin) := h.setPortState_moves (.recovering origin .release)

theorem State.NoRun.failRecovery_moves {s : State} {p : PortId} (h : s.NoRun p) (origin : Origin) :
    Moves G s (s.failRecovery p origin) := by
  unfold State.failRecovery
  dsimp only
  split
  · exact h.setPortState_moves (.stuck 0)
  · exact (h.setPortState_moves (.stuck 0)).trans (State.askNotice_moves _ _)

theorem State.NoRun.endSettle_moves {s : State} {p : PortId} (h : s.NoRun p) (ask : Bool) :
    Moves G s (s.endSettle p ask) := by
  unfold State.endSettle
  split
  · exact h.enterIdle_moves ask
  · exact h.beginRecovery_moves .settle

theorem State.NoRun.enterSettling_moves {s : State} {p : PortId} (h : s.NoRun p) (ask : Bool) :
    Moves G s (s.enterSettling p ask) := by
  refine (h.setPortState_moves (.settling 0)).trans ?_
  unfold State.enterSettling
  dsimp only
  split
  · exact (s.noRun_setPortState p).endSettle_moves ask
  · exact Moves.refl _

theorem State.NoRun.enterService_moves {s : State} {p : PortId} (h : s.NoRun p) :
    Moves G s (s.enterService p) := by
  unfold State.enterService
  split
  · exact h.enterIdle_moves false
  · exact h.beginRecovery_moves .enable

theorem State.NoRun.recheck_moves {s : State} {p : PortId} (h : s.NoRun p) :
    Moves G s (s.recheck p) := by
  unfold State.recheck
  dsimp only
  split
  · exact h.enterIdle_moves true
  · split
    · exact h.beginRecovery_moves .stuck
    · exact h.setPortState_moves (.stuck 0)

theorem State.NoRun.congr {s t : State} {p : PortId} (h : s.NoRun p)
    (run : (t.port p).state = (s.port p).state) : t.NoRun p := by
  unfold State.NoRun
  rw [run]
  exact h

theorem State.NoRun.endOfRecovery_moves {s : State} {p : PortId} (h : s.NoRun p) (origin : Origin)
    (l : Levels) : Moves G s (s.endOfRecovery p origin l) := by
  have freed : Moves G s (if l.sda then s.trackFree p else s) ∧
      (if l.sda then s.trackFree p else s).NoRun p := by
    split
    · refine ⟨s.trackFree_moves p, h.congr ?_⟩
      unfold State.trackFree
      split <;> simp
    · exact ⟨Moves.refl s, h⟩
  have read : ((if l.sda then s.trackFree p else s).readLines p l).NoRun p :=
    freed.2.congr (by cases p <;> rfl)
  refine freed.1.trans ((State.readLines_moves _ p l).trans ?_)
  unfold State.endOfRecovery
  generalize (if l.sda then s.trackFree p else s) = u at read ⊢
  dsimp only
  split
  · exact read.enterIdle_moves _
  · exact read.failRecovery_moves origin

theorem State.NoRun.finishRecovery_moves {s : State} {p : PortId} (h : s.NoRun p) (origin : Origin)
    (stage : RecoveryStage) (sda : List Bool) (lines : Option Levels) :
    Moves G s (s.finishRecovery p origin stage sda lines) := by
  unfold State.finishRecovery
  split
  · exact h.failRecovery_moves origin
  · exact h.endOfRecovery_moves origin _
  · split
    · exact Moves.refl s
    · exact h.setPortState_moves _

/-! ### The run that a port is in -/

theorem State.run?_eq_some {s : State} {p : PortId} {r : Run} :
    s.run? p = some r ↔ (s.port p).state = .running r := by
  unfold State.run?
  cases (s.port p).state <;> simp

/-- A port's run outside a byte. -/
theorem State.atRun {s : State} {p : PortId} {r : Run} (run : s.run? p = some r)
    (phase : r.phase.inByte = false) (law : G → s.BitLaw) : s.AtRun G p r := by
  have state := State.run?_eq_some.1 run
  exact ⟨by rw [state]; rfl, fun g => (law g p r state).2.1 phase⟩

theorem State.noRun_of_run {s : State} {p : PortId} (h : s.run? p = none) : s.NoRun p := by
  unfold State.run? at h
  unfold State.NoRun
  cases hs : (s.port p).state <;> simp [hs, PortState.runSlot] at h ⊢

end Sys2Proof.Machine
end


section
/-! SUPPORT. The bits of a byte are a sequence of moves too: the port stands in between with nine bits at
most, and between two commands with fewer (R124, R127). -/

namespace Sys2Proof.Machine

variable {G : Prop}

/-! ### Bits taken -/

/-- From `s`, with port `p` in run `r`, bits have been taken: jobs and pool have moved to `u`, and port `p`
has become `x`, in run `r1`, in the same byte. -/
structure State.BitsTo (G : Prop) (s : State) (p : PortId) (r : Run) (u : State) (x : Port)
    (r1 : Run) : Prop where
  moves    : Moves G s u
  port     : u.port p = s.port p
  state    : x.state = .running r1
  slot     : r1.slot = r.slot
  phase    : r1.phase = r.phase
  ready    : x.ready = (s.port p).ready
  notice   : x.notice = (s.port p).notice
  settings : x.settings = (s.port p).settings
  bits     : G → r1.bits.length ≤ 9 ∧ (r1.bits ≠ [] → x.pulls.length = r1.bits.length)

theorem State.BitsTo.start {s : State} {p : PortId} {r : Run} (run : (s.port p).state = .running r)
    (law : G → s.BitLaw) : s.BitsTo G p r s (s.port p) r where
  moves := Moves.refl s
  port := rfl
  state := run
  slot := rfl
  phase := rfl
  ready := rfl
  notice := rfl
  settings := rfl
  bits g := by
    obtain ⟨len, -, pulls⟩ := law g p r run
    exact ⟨by omega, pulls⟩

theorem State.storeReadByte_moves (s : State) (r : Run) (b : Byte) : Moves G s (s.storeReadByte r b) := by
  unfold State.storeReadByte
  split
  · exact (Move.pool s _ (Memory.wf_write _ b)).moves.trans (State.modifyRecord_moves _ r.slot _)
  · exact Moves.refl s

/-- One bit more of a byte of which fewer than nine have been taken. -/
theorem State.BitsTo.takeBit {s u : State} {p : PortId} {r r1 : Run} {x : Port}
    (h : s.BitsTo G p r u x r1) (high : Bool) (len : r1.bits.length < 9) :
    ∃ u' x' r', s.BitsTo G p r u' x' r' ∧ (u.setPort p x).takeBit p r1 high = u'.setPort p x' := by
  have bit : s.BitsTo G p r u { x with
      state := .running { r1 with bits := r1.bits ++ [high] }
      drive := { scl := .low, sda := (u.setPort p x).bitPull r1 }
      pulls := (if r1.bits.isEmpty then [] else x.pulls) ++ [(u.setPort p x).bitPull r1]
      stretch := 0 } { r1 with bits := r1.bits ++ [high] } :=
    { h with
      state := rfl
      bits := fun g => by
        refine ⟨by simp; omega, fun _ => ?_⟩
        cases hb : r1.bits with
        | nil => simp
        | cons b l =>
          have := (h.bits g).2 (by simp [hb])
          simp [this, hb] }
  unfold State.takeBit State.storeAtEighth
  simp only [State.openBit, State.closeBit, State.setPort_port_same, State.setPort_setPort]
  split
  · rw [State.storeReadByte_setPort]
    simp only [State.setPort_setPort, State.setPort_port_same]
    refine ⟨_, _, { r1 with bits := r1.bits ++ [high], readCursor := r1.readCursor + 1 }, ?_, rfl⟩
    exact { bit with
      moves := bit.moves.trans (State.storeReadByte_moves _ _ _)
      port := by rw [State.storeReadByte_port]; exact bit.port
      state := rfl }
  · exact ⟨_, _, _, bit, rfl⟩

theorem takeBits_to {s : State} {p : PortId} {r : Run} : ∀ (bits : List Bool) {u : State} {x : Port}
    {r1 : Run}, s.BitsTo G p r u x r1 →
    ∃ u' x' r', s.BitsTo G p r u' x' r' ∧ takeBits p bits (u.setPort p x) = u'.setPort p x'
  | [], _, _, _, h => ⟨_, _, _, h, rfl⟩
  | high :: rest, u, x, r1, h => by
    have run : (u.setPort p x).run? p = some r1 :=
      State.run?_eq_some.2 (by rw [State.setPort_port_same]; exact h.state)
    unfold takeBits
    simp only [run]
    split
    · rename_i c
      simp only [Bool.and_eq_true, decide_eq_true_eq] at c
      obtain ⟨u', x', r', h', e⟩ := h.takeBit high c.1
      rw [e]
      exact takeBits_to rest h'
    · exact ⟨_, _, _, h, rfl⟩

/-! ### A row of a byte -/

theorem Phase.notIdle_of_inByte {phase : Phase} (h : phase.inByte = true) :
    phase ≠ .runStart ∧ phase ≠ .start ∧ phase ≠ .pollGap ∧ phase ≠ .pauseFree := by
  cases phase <;> simp [Phase.inByte] at h ⊢

/-- A port in a byte may drive its lines (R124). -/
theorem Port.driveLawful_of_inByte {x : Port} {r : Run} (state : x.state = .running r)
    (inByte : r.phase.inByte = true) : x.DriveLawful := by
  intro idle
  obtain ⟨a, b, c, d⟩ := Phase.notIdle_of_inByte inByte
  rcases idle r state with e | ⟨e, -⟩ | e | e
  · exact absurd e a
  · exact absurd e b
  · exact absurd e c
  · exact absurd e d

/-- A port as bits of a byte leave it, with what is then in hand of the byte. -/
theorem State.BitsTo.setPort_moves {s u : State} {p : PortId} {r r1 r2 : Run} {x y : Port}
    (h : s.BitsTo G p r u x r1) (run : (s.port p).state = .running r)
    (inByte : r.phase.inByte = true) (state : y.state = .running r2) (slot : r2.slot = r1.slot)
    (phase : r2.phase = r1.phase) (ready : y.ready = x.ready) (notice : y.notice = x.notice)
    (settings : y.settings = x.settings)
    (bits : G → r2.bits.length < 9 ∧ (r2.bits ≠ [] → y.pulls.length = r2.bits.length)) :
    Moves G s (u.setPort p y) := by
  have stands : r2.phase.inByte = true := by rw [phase, h.phase]; exact inByte
  refine h.moves.trans (u.setPort_moves ⟨?_, ?_, ?_, fun _ => Port.driveLawful_of_inByte state stands,
    fun g _ => ?_⟩ ?_)
  · rw [h.port, ready, h.ready]
  · rw [h.port, notice, h.notice]
  · rw [h.port, state, run]
    simp [PortState.runSlot, slot, h.slot]
  · intro r3 hr
    rw [state] at hr
    cases hr
    obtain ⟨len, pulls⟩ := bits g
    exact ⟨len, fun c => (Bool.false_ne_true (c.symm.trans stands)).elim, pulls⟩
  · rw [h.port, settings, h.settings]

theorem State.onBits_moves {s : State} {p : PortId} {phase : Phase} (bits : List Bool)
    {whole : State → Run → Bool → State} (inByte : phase.inByte = true) (law : G → s.BitLaw)
    (after : ∀ t r nak, t.AtRun G p r → Moves G t (whole t r nak)) :
    Moves G s (s.onBits p phase bits whole) := by
  unfold State.onBits
  split
  · rename_i r hr
    split
    · rename_i hp
      have run := State.run?_eq_some.1 hr
      have stands : r.phase.inByte = true := by rw [eq_of_beq hp]; exact inByte
      obtain ⟨u, x, r1, h, e⟩ := takeBits_to bits (State.BitsTo.start run law)
      rw [State.setPort_port_self] at e
      have at1 : (u.setPort p x).run? p = some r1 :=
        State.run?_eq_some.2 (by rw [State.setPort_port_same]; exact h.state)
      simp only [e, at1]
      split
      · simp only [State.endByte, State.setPort_setPort, State.setPort_port_same]
        refine (h.setPort_moves (y := { x with state := .running { r1 with bits := [] } })
          (r2 := { r1 with bits := [] }) run stands rfl rfl rfl rfl rfl rfl
          fun _ => ⟨by simp, fun c => absurd rfl c⟩).trans (after _ _ _ ⟨?_, fun _ => rfl⟩)
        simp [PortState.runSlot]
      · rename_i notNine
        refine h.setPort_moves run stands h.state rfl rfl rfl rfl rfl fun g => ?_
        have := h.bits g
        simp only [beq_iff_eq] at notNine
        exact ⟨by omega, this.2⟩
    · exact Moves.refl s
  · exact Moves.refl s

theorem State.addressBits_moves {s : State} (p : PortId) (bits : List Bool) (law : G → s.BitLaw) :
    Moves G s (s.onBits p .address bits (State.addressSent p)) :=
  s.onBits_moves bits rfl law fun _ _ nak h => h.addressSent_moves nak

theorem State.pollBits_moves {s : State} (p : PortId) (bits : List Bool) (law : G → s.BitLaw) :
    Moves G s (s.onBits p .poll bits (State.attemptSent p)) :=
  s.onBits_moves bits rfl law fun _ _ nak h => h.attemptSent_moves nak

theorem State.writeBits_moves {s : State} (p : PortId) (bits : List Bool) (law : G → s.BitLaw) :
    Moves G s (s.onBits p .write bits (State.dataSent p)) :=
  s.onBits_moves bits rfl law fun _ _ nak h => h.dataSent_moves nak

theorem State.readBits_moves {s : State} (p : PortId) (bits : List Bool) (law : G → s.BitLaw) :
    Moves G s (s.onBits p .read bits (State.dataReceived p)) :=
  s.onBits_moves bits rfl law fun _ _ nak h => h.dataReceived_moves nak

theorem State.passBits_moves {s : State} (p : PortId) (bits : List Bool) (law : G → s.BitLaw) :
    Moves G s (s.passBits p bits) := by
  unfold State.passBits
  split
  · exact Moves.refl s
  · split
    · split
      · exact State.addressBits_moves p bits law
      · exact State.pollBits_moves p bits law
      · exact State.writeBits_moves p bits law
      · exact State.readBits_moves p bits law
      · exact Moves.refl s
    · exact Moves.refl s

end Sys2Proof.Machine
end


section
/-! SUPPORT. What an increment brings about is a sequence of moves: the time base's evaluation, the event
unit's act, the acts of the ports and of the dispatcher (R56, R75, R92, R112 to R119). -/

namespace Sys2Proof.Machine

variable {G : Prop}

/-! ### Stretch timeout, presence, dispatch -/

theorem State.atRun_any {s : State} {p : PortId} {r : Run} (run : (s.port p).state = .running r) :
    s.AtRun False p r := ⟨by rw [run]; rfl, False.elim⟩

theorem State.noRun_of_state {s : State} {p : PortId} {x : PortState} (h : (s.port p).state = x)
    (idle : x.runSlot = none := by rfl) : s.NoRun p := by
  unfold State.NoRun
  rw [h, idle]

theorem State.stretchTimeout_moves (s : State) (p : PortId) : Moves G s (s.stretchTimeout p) := by
  unfold State.stretchTimeout
  split
  · rename_i r run
    split
    · exact (s.noteFail_moves r).trans
        ((State.atRun_any run).noteFail.finishRun_moves _ (.recovering .run .release))
    · exact Moves.refl s
  · rename_i origin stage state
    exact (State.noRun_of_state state).failRecovery_moves origin
  · exact Moves.refl s

theorem State.losePresence_moves (s : State) (p : PortId) : Moves G s (s.losePresence p) := by
  unfold State.losePresence
  split
  · rename_i r run
    exact ((s.modifyRecord_moves r.slot _).trans
      (((State.atRun_any run).modifyRecord r.slot _).finishRun_moves .detached .detached)).trans
        (State.askNotice_moves _ _)
  · rename_i notRunning
    refine State.NoRun.enterDetached_moves (State.noRun_of_run ?_)
    rw [Option.eq_none_iff_forall_not_mem]
    exact fun r hr => notRunning r (State.run?_eq_some.1 hr)

theorem State.gainPresence_moves (s : State) (p : PortId) : Moves G s (s.gainPresence p) := by
  unfold State.gainPresence
  split
  · rename_i state
    exact (State.noRun_of_state state).enterSettling_moves true
  · exact Moves.refl s

theorem State.takePresence_moves (s : State) (p : PortId) : Moves G s (s.takePresence p) := by
  refine Relation.ReflTransGen.trans
    (s.setPort_moves (x := (s.port p).flipPresence) (Port.kept_of_same rfl rfl rfl rfl rfl) rfl) ?_
  unfold State.takePresence
  dsimp only
  split
  · split
    · exact State.losePresence_moves _ p
    · exact State.gainPresence_moves _ p
  · exact Moves.refl _

theorem State.ready_of_eligible {s : State} {slot : Nat} (h : s.eligible slot = true) :
    ∃ j, s.job? slot = some j ∧ j.state = .ready := by
  unfold State.eligible at h
  split at h
  · rename_i j hj
    simp only [Bool.and_eq_true, beq_iff_eq] at h
    exact ⟨j, hj, h.1⟩
  · cases h

theorem State.dispatchPort_moves (s : State) (p : PortId) : Moves G s (s.dispatchPort p) := by
  unfold State.dispatchPort
  split
  · rename_i slot idle found
    obtain ⟨j, hj, ready⟩ := State.ready_of_eligible (List.find?_some found)
    exact (Move.dispatch s p slot j hj ready (List.mem_of_find?_eq_some found) idle).moves
  · exact Moves.refl s

/-! ### The time base (R56) -/

theorem Job.waits_of_expires {j : Job} {now : Time} (h : j.verdict now = .expires) :
    j.state = .pending ∨ j.state = .ready := by
  unfold Job.verdict at h
  split at h
  · rename_i c
    simp only [Job.expires, Bool.and_eq_true, Bool.or_eq_true, beq_iff_eq] at c
    exact c.1
  · split at h
    · cases h
    · split at h <;> cases h

theorem Job.pending_of_fires {j : Job} {now t : Time} (h : j.verdict now = .fires t) :
    j.state = .pending ∧ j.recurring = false := by
  unfold Job.verdict at h
  split at h
  · cases h
  · split at h
    · rename_i due
      unfold Job.atDue at due
      split at due
      · rename_i trigger
        split at due
        · rename_i c
          simp only [Bool.and_eq_true, beq_iff_eq] at c
          exact ⟨c.1, by simp [Job.recurring, trigger]⟩
        · cases due
      · cases due
    · split at h <;> cases h

theorem Job.recurring_of_hits {j : Job} {now : Time} (h : j.verdict now = .hits) :
    j.recurring = true := by
  unfold Job.verdict at h
  split at h
  · cases h
  · split at h
    · cases h
    · split at h
      · rename_i due
        unfold Job.everyDue at due
        split at due
        · rename_i trigger
          simp [Job.recurring, trigger]
        · cases due
      · cases h

theorem State.job_of_verdict {s : State} {slot : Nat} (h : s.verdict slot ≠ .stands) :
    ∃ j, s.job? slot = some j ∧ j.verdict s.time = s.verdict slot := by
  unfold State.verdict at h ⊢
  split at h
  · rename_i j hj; exact ⟨j, hj, rfl⟩
  · exact absurd rfl h

/-- The expiry of a job that the time base finds past its deadline. -/
theorem State.expire_moves {s : State} {slot : Nat} (h : s.verdict slot = .expires) :
    Moves G s (s.endWithoutRun slot .expired) := by
  obtain ⟨j, hj, hv⟩ := State.job_of_verdict (by rw [h]; decide)
  exact (Move.endWithoutRun s slot j .expired hj (Job.waits_of_expires (hv.trans h))).moves

theorem State.fireAt_moves {s : State} {slot : Nat} {t : Time} (h : s.verdict slot = .fires t) :
    Moves G s (s.fireAt slot t) := by
  obtain ⟨j, hj, hv⟩ := State.job_of_verdict (by rw [h]; exact nofun)
  obtain ⟨pending, single⟩ := Job.pending_of_fires (hv.trans h)
  exact (Move.trigger s slot j _ _ hj pending single).moves

theorem State.missRun_moves (s : State) (slot : Nat) : Moves G s (s.missRun slot) := by
  unfold State.missRun
  cases hj : s.job? slot with
  | none => rw [State.modifyJob_none _ hj]
  | some j =>
    rw [State.modifyJob_of _ hj]
    refine (Move.job s slot j _ hj ⟨⟨?_, ?_, ?_, ?_, ?_, ?_⟩, ?_, ?_, ?_, ?_, fun _ => ⟨?_, ?_⟩⟩).moves <;>
      dsimp only

theorem State.matchEvery_moves {s : State} {slot : Nat} (h : s.verdict slot = .hits) :
    Moves G s (s.matchEvery slot) := by
  obtain ⟨j, hj, hv⟩ := State.job_of_verdict (by rw [h]; decide)
  have recurring := Job.recurring_of_hits (hv.trans h)
  simp only [State.matchEvery, hj]
  split
  · rename_i c
    simp only [Bool.and_eq_true, beq_iff_eq, decide_eq_true_eq] at c
    exact (Move.grant s slot j _ hj c.1 recurring c.2).moves
  · exact s.missRun_moves slot

theorem State.evalJob_moves (s : State) (slot : Nat) : Moves G s (s.evalJob slot) := by
  cases hv : s.verdict slot with
  | stands => rw [State.evalJob_stands hv]
  | expires => simp only [State.evalJob, hv]; exact State.expire_moves hv
  | fires t => simp only [State.evalJob, hv]; exact State.fireAt_moves hv
  | hits => simp only [State.evalJob, hv]; exact State.matchEvery_moves hv

theorem evalJobs_moves : ∀ (l : List Nat) (s : State), Moves G s (evalJobs l s)
  | [], s => Moves.refl s
  | slot :: rest, s => (s.evalJob_moves slot).trans (evalJobs_moves rest _)

theorem State.setEvals_moves (s : State) (l : List Nat) : Moves G s (s.setEvals l) :=
  (Move.tick s { s.tick with evals := l } rfl).moves

theorem State.finishTimeBase_moves (s : State) : Moves G s s.finishTimeBase := by
  unfold State.finishTimeBase
  split
  · exact Moves.refl s
  · exact (evalJobs_moves _ s).trans (State.setEvals_moves _ _)

/-! ### The event unit (R71 to R77) -/

theorem Capture.take_lawful {c : Capture} (mode : CaptureMode) (p : Polarity) (t : Time)
    (h : c.Lawful) : (c.take mode p t).Lawful := by
  obtain ⟨len, -, -⟩ := h
  refine ⟨?_, ?_, nofun⟩
  · show min (c.count + 1) 255 ≤ 255
    omega
  · show true = true ↔ min (c.count + 1) 255 ≠ 0
    simp

theorem State.countEdge_moves (s : State) (n : Nat) (t : Time) (slot : Nat) :
    Moves G s (s.countEdge n t slot) := by
  unfold State.countEdge
  split
  · rename_i j hj
    split
    · have counted : Move G s (s.setJob slot { j with countdown := j.countdown - 1 }) :=
        Move.job s slot j { j with countdown := j.countdown - 1 } hj
          ⟨⟨rfl, rfl, rfl, rfl, rfl, rfl⟩, rfl, rfl, rfl, rfl, fun _ => ⟨rfl, rfl⟩⟩
      dsimp only
      split
      · refine counted.moves.trans (Move.tick _ _ ?_).moves
        rfl
      · exact counted.moves
    · exact Moves.refl s
  · exact Moves.refl s

theorem countEdges_moves (n : Nat) (t : Time) : ∀ (l : List Nat) (s : State),
    Moves G s (countEdges n t l s)
  | [], s => Moves.refl s
  | slot :: rest, s => (s.countEdge_moves n t slot).trans (countEdges_moves n t rest _)

theorem State.detectEdge_moves (s : State) (n : Nat) : Moves G s (s.detectEdge n) := by
  unfold State.detectEdge
  dsimp only
  split
  · refine ((Move.line s n _ (by rfl) (.inl (by rfl)) fun h => Capture.take_lawful _ _ _ h).moves.trans
      (countEdges_moves n _ _ _)).trans (Move.tick _ _ (by rfl)).moves
  · exact (Move.line s n { s.line n with sampler := (s.line n).sampler.detected } rfl (.inl rfl)
      fun h => h).moves

theorem detectEdges_moves : ∀ (l : List Nat) (s : State), Moves G s (detectEdges l s)
  | [], s => Moves.refl s
  | n :: rest, s => (s.detectEdge_moves n).trans (detectEdges_moves rest _)

theorem State.fireEvent_moves (s : State) (x : Nat × Time) : Moves G s (s.fireEvent x) := by
  unfold State.fireEvent
  split
  · rename_i c
    obtain ⟨j, hj, onEvent⟩ := (Option.any_eq_true _ _).1 c
    by_cases pending : j.state = .pending
    · refine (Move.trigger s x.1 j x.2 false hj pending ?_).moves
      unfold Job.onEvent at onEvent
      split at onEvent
      · rename_i trigger; simp [Job.recurring, trigger]
      · cases onEvent
    · rw [State.triggerJob_skip x.2 false hj pending]
  · exact Moves.refl s

theorem fireEvents_moves : ∀ (l : List (Nat × Time)) (s : State), Moves G s (fireEvents l s)
  | [], s => Moves.refl s
  | x :: rest, s => (s.fireEvent_moves x).trans (fireEvents_moves rest _)

theorem askLines_moves : ∀ (l : List Nat) (s : State), Moves G s (askLines l s)
  | [], s => Moves.refl s
  | n :: rest, s => (s.askNotice_moves (.line n)).trans (askLines_moves rest _)

theorem State.closeEvents_moves (s : State) : Moves G s s.closeEvents := by
  unfold State.closeEvents
  split
  · exact (askLines_moves _ s).trans (Move.tick _ _ (by rfl)).moves
  · exact Moves.refl s

theorem State.finishEventUnit_moves (s : State) : Moves G s s.finishEventUnit := by
  unfold State.finishEventUnit
  dsimp only
  exact ((((detectEdges_moves s.tick.edges s).trans (Move.tick _ _ (by rfl)).moves).trans
    (fireEvents_moves _ _)).trans (Move.tick _ _ (by rfl)).moves).trans (State.closeEvents_moves _)

theorem State.finishEventIfBegun_moves (s : State) : Moves G s s.finishEventIfBegun := by
  unfold State.finishEventIfBegun
  split
  · exact s.finishEventUnit_moves
  · exact Moves.refl s

theorem State.beforeEvent_moves (s : State) : Moves G s s.beforeEvent :=
  s.finishEventIfBegun_moves.trans (State.finishTimeBase_moves _)

theorem State.beforeLineEvent_moves (s : State) : Moves G s s.beforeLineEvent :=
  s.beforeEvent_moves.trans (State.finishEventUnit_moves _)

/-! ### What is due of a port -/

theorem State.forcePresence_moves (s : State) (p : PortId) : Moves G s (s.forcePresence p) := by
  unfold State.forcePresence
  split
  · exact s.takePresence_moves p
  · exact Moves.refl s

theorem State.forceStretch_moves (s : State) (p : PortId) : Moves G s (s.forceStretch p) := by
  unfold State.forceStretch
  split
  · exact s.stretchTimeout_moves p
  · exact Moves.refl s

theorem State.beforeWire_moves (s : State) (p : PortId) : Moves G s (s.beforeWire p) :=
  s.beforeEvent_moves.trans (State.forceStretch_moves _ p)

theorem State.forceWait_moves {s : State} (p : PortId) (law : G → s.BitLaw) :
    Moves G s (s.forceWait p) := by
  unfold State.forceWait
  split
  · rename_i r run
    split
    · rename_i due
      simp only [State.pollGapDue, Bool.and_eq_true, beq_iff_eq] at due
      exact (State.atRun run (by rw [due.1]; rfl) law).endPollGap_moves
    · split
      · rename_i due
        refine (State.atRun run ?_ law).nextStep_moves
        simp only [State.pauseHoldDue, State.pauseFreeDue, Bool.or_eq_true, Bool.and_eq_true,
          beq_iff_eq] at due
        rcases due with ⟨e, -⟩ | ⟨e, -⟩ <;> rw [e] <;> rfl
      · exact Moves.refl s
  · exact Moves.refl s

theorem State.noRun_of_settleDue {s : State} {p : PortId} (h : (s.port p).settleDue = true) :
    s.NoRun p := by
  unfold Port.settleDue at h
  split at h
  · rename_i state; exact State.noRun_of_state state
  · cases h

theorem State.noRun_of_recheckDue {s : State} {p : PortId} (h : (s.port p).recheckDue = true) :
    s.NoRun p := by
  unfold Port.recheckDue at h
  split at h
  · rename_i state; exact State.noRun_of_state state
  · cases h

theorem State.forceCheck_moves (s : State) (p : PortId) : Moves G s (s.forceCheck p) := by
  unfold State.forceCheck
  split
  · rename_i due; exact (State.noRun_of_settleDue due).endSettle_moves true
  · split
    · rename_i due; exact (State.noRun_of_recheckDue due).recheck_moves
    · exact Moves.refl s

theorem State.forceTracker_moves (s : State) (p : PortId) : Moves G s (s.forceTracker p) := by
  unfold State.forceTracker
  split
  · exact s.trackFree_moves p
  · exact Moves.refl s

/-- The law of the bits, at the end of moves that begin with it. -/
theorem Moves.bitLaw {s t : State} (m : Moves G s t) (law : G → s.BitLaw) : G → t.BitLaw :=
  fun g p => m.framed.bits g p (law g p)

theorem State.forcePort_moves {s : State} (p : PortId) (law : G → s.BitLaw) :
    Moves G s (s.forcePort p) := by
  have m := (s.forcePresence_moves (G := G) p).trans (State.forceStretch_moves _ p)
  exact ((m.trans (State.forceWait_moves p (Moves.bitLaw m law))).trans
    (State.forceCheck_moves _ p)).trans (State.forceTracker_moves _ p)

/-! ### Requests that move jobs or ports -/

theorem mem_insertOldest {α : Type} (age : α → Nat) (x y : α) : ∀ (l : List α),
    y ∈ insertOldest age x l → y = x ∨ y ∈ l
  | [], h => by simpa [insertOldest] using h
  | z :: l, h => by
    unfold insertOldest at h
    split at h
    · simpa using h
    · rcases List.mem_cons.1 h with e | h
      · exact .inr (by simp [e])
      · rcases mem_insertOldest age x y l h with e | h
        · exact .inl e
        · exact .inr (List.mem_cons_of_mem _ h)

theorem mem_foldl_insertOldest (age : Nat → Nat) (y : Nat) : ∀ (l acc : List Nat),
    y ∈ l.foldl (fun order slot => insertOldest age slot order) acc → y ∈ l ∨ y ∈ acc
  | [], _, h => .inr h
  | x :: l, acc, h => by
    rcases mem_foldl_insertOldest age y l _ h with h | h
    · exact .inl (List.mem_cons_of_mem _ h)
    · rcases mem_insertOldest age x y acc h with e | h
      · exact .inl (by simp [e])
      · exact .inr h

/-- Ordering slots by admission adds none. -/
theorem State.mem_admissionOrder {s : State} {l : List Nat} {y : Nat} (h : y ∈ s.admissionOrder l) :
    y ∈ l := (mem_foldl_insertOldest s.age y l [] h).resolve_right (by simp)

/-- A job that ends leaves every other as it was; the jobs that wait still wait. -/
theorem closeJobs_moves : ∀ (l : List Nat) (s : State),
    (∀ i ∈ l, ∀ j, s.job? i = some j → j.state = .pending ∨ j.state = .ready) →
    Moves G s (closeJobs l s)
  | [], s, _ => Moves.refl s
  | slot :: rest, s, waits => by
    unfold closeJobs
    cases hj : s.job? slot with
    | none =>
      have e : s.endWithoutRun slot .portClosed = s := by simp only [State.endWithoutRun, hj]
      rw [e]
      exact closeJobs_moves rest s fun i hi => waits i (List.mem_cons_of_mem _ hi)
    | some j =>
      refine (Move.endWithoutRun s slot j .portClosed hj (waits slot (by simp) j hj)).moves.trans
        (closeJobs_moves rest _ fun i hi k hk => ?_)
      rw [(State.endWithoutRun_leaves .portClosed hj).job hj] at hk
      split at hk
      · cases hk
      · exact waits i (List.mem_cons_of_mem _ hi) k hk

theorem State.waits_of_slotsToClose {s : State} {p : PortId} {i : Nat} (h : i ∈ s.slotsToClose p)
    {j : Job} (hj : s.job? i = some j) : j.state = .pending ∨ j.state = .ready := by
  have := (List.mem_filter.1 (State.mem_admissionOrder h)).2
  simp only [hj, Option.any_some, Bool.and_eq_true, Bool.or_eq_true, beq_iff_eq] at this
  exact this.2

theorem State.askNotice_port_state (s : State) (src : Source) (p : PortId) :
    ((s.askNotice src).port p).state = (s.port p).state :=
  (State.askNotice_moved s src).jobsMoved.portState p

theorem closeJobs_portState (p : PortId) : ∀ (l : List Nat) (s : State),
    ((closeJobs l s).port p).state = (s.port p).state
  | [], _ => rfl
  | slot :: rest, s => by
    have e : ((s.endWithoutRun slot .portClosed).port p).state = (s.port p).state := by
      cases hj : s.job? slot with
      | none => simp only [State.endWithoutRun, hj]
      | some j => exact (State.endWithoutRun_leaves .portClosed hj).moved.portState p
    exact (closeJobs_portState p rest _).trans e

theorem State.NoRun.closePort_moves {s : State} {p : PortId} (h : s.NoRun p) :
    Moves G s (s.closePort p) := by
  refine (closeJobs_moves (s.slotsToClose p) s
    fun i hi j hj => State.waits_of_slotsToClose hi hj).trans ?_
  exact (h.congr (closeJobs_portState p _ s)).setPortState_moves .off

theorem State.setSampler_moves (s : State) (n : Nat) (x : Sampler) :
    Moves G s (s.setLine n { s.line n with sampler := x }) :=
  (Move.line s n { s.line n with sampler := x } rfl (.inl rfl) fun h => h).moves

theorem State.takeSharedPins_moves (s : State) : Moves G s s.takeSharedPins := by
  unfold State.takeSharedPins
  dsimp only
  exact ((s.setSampler_moves 6 _).trans (State.setSampler_moves _ 7 _)).trans (Move.tick _ _ (by rfl)).moves

theorem State.NoRun.openPort_moves {s : State} {p : PortId} (h : s.NoRun p) :
    Moves G s (s.openPort p) := by
  have pins : Moves G s (if p == .b then s.takeSharedPins else s) ∧
      (if p == .b then s.takeSharedPins else s).NoRun p := by
    split
    · exact ⟨s.takeSharedPins_moves, h.congr (by simp [State.takeSharedPins])⟩
    · exact ⟨Moves.refl s, h⟩
  unfold State.openPort
  generalize (if p == .b then s.takeSharedPins else s) = u at pins ⊢
  obtain ⟨m, hu⟩ := pins
  refine m.trans ?_
  dsimp only
  split
  · exact hu.enterService_moves
  · split
    · exact hu.enterSettling_moves false
    · exact hu.enterDetached_moves

theorem State.NoRun.reconfigure_moves {s : State} {p : PortId} (h : s.NoRun p) :
    Moves G s (s.reconfigure p) := by
  unfold State.reconfigure
  dsimp only
  split
  · exact h.enterService_moves
  · exact h.enterService_moves
  · exact Moves.refl s
  · exact Moves.refl s
  · split
    · exact h.endSettle_moves false
    · exact Moves.refl s
  · split
    · exact Moves.refl s
    · exact h.enterDetached_moves
  · split
    · exact Moves.refl s
    · exact h.enterDetached_moves
  · exact Moves.refl s

/-- New settings of a port that no edge setting stands in the way of (R69, R107, R108). -/
theorem State.NoRun.applySettings_moves {s : State} {p : PortId} (h : s.NoRun p) (c : PortSettings)
    (free : p = .a ∨ c.mode = .off ∨ s.sharedLineWatches = false) :
    Moves G s (s.applySettings p c) := by
  have set : Moves G s (s.setPort p ((s.port p).configure c)) := by
    refine (Move.port s p ((s.port p).configure c) (Port.kept_of_same rfl rfl rfl rfl rfl) ?_).moves
    rcases free with e | e | e
    · exact .inr (.inl e)
    · exact .inr (.inr (.inl e))
    · simp only [State.sharedLineWatches, Bool.or_eq_false_iff, bne_eq_false_iff_eq] at e
      exact .inr (.inr (.inr e))
  have hu : (s.setPort p ((s.port p).configure c)).NoRun p := h.congr (by
    rw [State.setPort_port_same]; rfl)
  refine set.trans ?_
  unfold State.applySettings
  dsimp only
  split
  · exact Moves.refl _
  · exact hu.closePort_moves
  · exact hu.openPort_moves
  · exact hu.reconfigure_moves

theorem compareAll_moves : ∀ (l : List Report) (s : State), Moves G s (compareAll l s)
  | [], s => Moves.refl s
  | r :: rest, s => by
    refine Relation.ReflTransGen.trans ?_ (compareAll_moves rest _)
    unfold State.compareDelivered
    split
    · split
      · exact State.askNotice_moves _ _
      · exact Moves.refl s
    · exact Moves.refl s

theorem State.removeReports_moves (s : State) (k : Nat) : Moves G s (s.removeReports k) :=
  (Move.removed s k).moves.trans (compareAll_moves _ _)

theorem State.stopNow_moves {s : State} {p : PortId} {r : Run} (startUnderWay : Bool)
    (run : s.run? p = some r) (law : G → s.BitLaw) : Moves G s (s.stopNow p r startUnderWay) := by
  have stop (outside : r.phase.inByte = false) : Moves G s (s.stopHere p r) :=
    (State.atRun run outside law).stopHere_moves
  unfold State.stopNow
  cases hp : r.phase with
  | start =>
    dsimp only
    split
    · exact stop (by rw [hp]; rfl)
    · exact Moves.refl s
  | pauseHold => exact stop (by rw [hp]; rfl)
  | pollGap => exact stop (by rw [hp]; rfl)
  | pauseFree => exact stop (by rw [hp]; rfl)
  | runStart => exact Moves.refl s
  | address => exact Moves.refl s
  | poll => exact Moves.refl s
  | write => exact Moves.refl s
  | read => exact Moves.refl s
  | stop a => exact Moves.refl s

theorem State.stopRun_moves {s : State} {slot : Nat} {j : Job} (hj : s.job? slot = some j)
    (active : j.state = .active) (startUnderWay : Bool) (law : G → s.BitLaw) :
    Moves G s (s.stopRun slot startUnderWay) := by
  have set : Moves G s (s.modifyJob slot (fun j =>
      { j with stopping := true, ending := j.ending || j.recurring })) := by
    rw [State.modifyJob_of _ hj]
    exact (Move.job s slot j { j with stopping := true, ending := j.ending || j.recurring } hj
      ⟨⟨rfl, rfl, rfl, rfl, rfl, rfl⟩, rfl, rfl, rfl, rfl, fun c => by rw [active] at c; cases c⟩).moves
  unfold State.stopRun
  generalize s.modifyJob slot (fun j =>
    { j with stopping := true, ending := j.ending || j.recurring }) = u at set ⊢
  refine set.trans ?_
  dsimp only
  split
  · split
    · rename_i run
      split
      · exact State.stopNow_moves startUnderWay run (Moves.bitLaw set law)
      · exact Moves.refl u
    · exact Moves.refl u
  · exact Moves.refl u

theorem State.cancelJob_moves (s : State) (slot : Nat) (startUnderWay : Bool) (law : G → s.BitLaw) :
    Moves G s (s.cancelJob slot startUnderWay) := by
  unfold State.cancelJob
  split
  · exact Moves.refl s
  · rename_i j hj
    cases state : j.state with
    | pending => exact (Move.cancelWaiting s slot j hj (.inl state)).moves
    | ready => exact (Move.cancelWaiting s slot j hj (.inr state)).moves
    | active =>
      dsimp only
      split
      · exact State.stopRun_moves hj state startUnderWay law
      · split
        · rw [State.modifyJob_of _ hj]
          exact (Move.job s slot j { j with ending := true } hj ⟨⟨rfl, rfl, rfl, rfl, rfl, rfl⟩, rfl,
            rfl, rfl, rfl, fun c => by rw [state] at c; cases c⟩).moves
        · exact Moves.refl s
    | done => exact Moves.refl s

end Sys2Proof.Machine
end


section
/-! SUPPORT. What every command keeps: the laws, block by block, and the host link's (R163 to R174). -/

namespace Sys2Proof.Machine

/-! ### What a command keeps -/

/-- From `s` to `t` every law but that of the link is kept, and the queue of commands stands. -/
structure State.BlocksKept (s t : State) : Prop extends s.LawsKept t where
  pool    : s.PoolLaw → t.PoolLaw
  pin     : s.PinLaw → t.PinLaw
  drive   : s.DriveLaw → t.DriveLaw
  bits    : s.BitLaw → t.BitLaw
  capture : s.CaptureLaw → t.CaptureLaw
  pending : t.pending = s.pending

/-- From `s` to `t` every law is kept. -/
structure State.Keeps (s t : State) : Prop extends s.BlocksKept t where
  link  : s.LinkLaw → t.LinkLaw
  ahead : s.tick.ahead = false → t.tick.ahead = false

/-- From `s` to `t` every law is kept, and neither the time nor the time-set indicator has moved. -/
structure State.Steady (s t : State) : Prop extends s.Keeps t where
  time    : t.time = s.time
  timeSet : t.timeSet = s.timeSet

theorem State.BlocksKept.refl (s : State) : s.BlocksKept s where
  toLawsKept := State.LawsKept.refl s
  pool := id
  pin := id
  drive := id
  bits := id
  capture := id
  pending := rfl

theorem State.BlocksKept.trans {s t u : State} (h : s.BlocksKept t) (k : t.BlocksKept u) :
    s.BlocksKept u where
  toLawsKept := h.toLawsKept.trans k.toLawsKept
  pool := k.pool ∘ h.pool
  pin := k.pin ∘ h.pin
  drive := k.drive ∘ h.drive
  bits := k.bits ∘ h.bits
  capture := k.capture ∘ h.capture
  pending := k.pending.trans h.pending

theorem State.Keeps.trans {s t u : State} (h : s.Keeps t) (k : t.Keeps u) : s.Keeps u where
  toBlocksKept := h.toBlocksKept.trans k.toBlocksKept
  link := k.link ∘ h.link
  ahead := k.ahead ∘ h.ahead

theorem State.Steady.trans {s t u : State} (h : s.Steady t) (k : t.Steady u) : s.Steady u where
  toKeeps := h.toKeeps.trans k.toKeeps
  time := k.time.trans h.time
  timeSet := k.timeSet.trans h.timeSet

theorem State.Steady.refl (s : State) : s.Steady s where
  toBlocksKept := State.BlocksKept.refl s
  link := id
  ahead := id
  time := rfl
  timeSet := rfl

theorem Moves.blocksKept {s t : State} (m : Moves s.BitLaw s t) : s.BlocksKept t where
  toLawsKept := m.lawsKept
  pool := m.framed.pool
  pin := m.framed.pin
  drive law p := m.framed.drive p (law p)
  bits law p := m.framed.bits law p (law p)
  capture law := (State.captureLaw_iff t).2 (m.framed.capture ((State.captureLaw_iff s).1 law))
  pending := m.framed.pending

theorem Moves.steady {s t : State} (m : Moves s.BitLaw s t) : s.Steady t where
  toBlocksKept := m.blocksKept
  link := m.framed.link.lawful
  ahead h := m.framed.ahead.trans h
  time := m.framed.time
  timeSet := m.framed.timeSet

/-- The clock, the work left of the increment and the link's counts are in no law but the link's. -/
theorem State.blocksKept_of_fields {s t : State} (pending : t.pending = s.pending)
    (slots : t.slots = s.slots) (pool : t.pool = s.pool) (lines : t.lines = s.lines)
    (ports : ∀ p, t.port p = s.port p) (reports : t.reports = s.reports)
    (link : s.link.HoldsAs t.link) : s.BlocksKept t where
  table law := law.congr slots
  queue law := by
    obtain ⟨holds, free⟩ := (State.queueLaw_iff s).1 law
    refine (State.queueLaw_iff t).2 ⟨holds.congr slots (by rw [reports]) (by rw [reports]) (by rw [reports]), ?_⟩
    simpa only [State.job?, slots] using free
  notice law := law.congr (by rw [lines]) (fun src => by
    cases src with
    | line n => simp only [State.noticeState, State.line, lines]
    | port p => simp only [State.noticeState, ports]) (by rw [reports]) (by rw [reports])
  dispatch law := (State.dispatchLaw_iff t).2 (((State.dispatchLaw_iff s).1 law).congr slots
    (fun p => by rw [ports]) (fun p => by rw [ports]))
  held _ law := law.congr slots link
  pool law := by simpa only [State.PoolLaw, pool] using law
  pin law := by
    have e : t.portB = s.portB := ports .b
    simpa only [State.PinLaw, State.line, lines, e] using law
  drive law := by simpa only [State.DriveLaw, ports] using law
  bits law := by simpa only [State.BitLaw, ports] using law
  capture law := by simpa only [State.CaptureLaw, lines] using law
  pending := pending

theorem State.setLink_blocksKept (s : State) {l : Link} (slot : s.link.HoldsAs l) :
    s.BlocksKept (s.setLink l) :=
  State.blocksKept_of_fields rfl rfl rfl rfl (fun p => by simp) rfl slot

/-- A change of the link that holds the reply of the same job. -/
theorem State.setLink_steady (s : State) {l : Link} (slot : s.link.HoldsAs l)
    (lawful : s.link.Lawful → l.Lawful) : s.Steady (s.setLink l) where
  toBlocksKept := s.setLink_blocksKept slot
  link := lawful
  ahead := id
  time := rfl
  timeSet := rfl

/-! ### A reset -/

theorem State.job_fresh {t : State} (h : t.slots = List.replicate 32 none) (i : Nat) :
    t.job? i = none := by
  simp only [State.job?, h, List.getD_eq_getElem?_getD, List.getElem?_replicate]
  split <;> rfl

/-- The state of the part right after a reset, whatever the time, the pins and the bit rate are. -/
structure State.Fresh (t : State) : Prop where
  slots   : t.slots = List.replicate 32 none
  pool    : t.pool = []
  lines   : t.lines = List.replicate 8 Line.reset
  ports   : ∀ p, t.port p = Port.reset
  reports : t.reports = ReportQueue.reset
  ahead   : t.tick.ahead = false
  slot    : t.link.slot = .empty
  link    : t.link.Lawful

theorem Link.reset_lawful (rate : BitVec 2) : (Link.reset rate).Lawful :=
  ⟨Nat.zero_le 4, show 1 ≤ 16 by decide, show 16 ≤ 255 by decide, nofun, nofun⟩

theorem State.Fresh.line {t : State} (h : t.Fresh) (n : Nat) : t.line n = Line.reset := by
  simp only [State.line, h.lines, List.getD_eq_getElem?_getD, List.getElem?_replicate]
  split <;> rfl

theorem State.Fresh.tableLaw {t : State} (h : t.Fresh) : t.TableLaw := by
  have none := State.job_fresh h.slots
  refine ⟨by rw [h.slots]; rfl, fun i j hj => ?_, fun i i' j j' hj => ?_⟩
  · rw [none] at hj; cases hj
  · rw [none] at hj; cases hj

theorem State.Fresh.queueLaw {t : State} (h : t.Fresh) : t.QueueLaw := by
  refine ⟨by rw [h.reports]; decide, by rw [h.reports, h.slots]; decide,
    fun c => absurd (by rw [h.reports]; rfl) c, fun i j hj => ?_⟩
  rw [State.job_fresh h.slots] at hj; cases hj

theorem State.Fresh.noticeLaw {t : State} (h : t.Fresh) : t.NoticeLaw := by
  have owed : t.reports.owed = [] := by rw [h.reports]; rfl
  have queued : t.reports.queued = [] := by rw [h.reports]; rfl
  have state src : t.noticeState src = .none := by
    cases src with
    | line n => simp only [State.noticeState, h.line]; rfl
    | port p => simp only [State.noticeState, h.ports]; rfl
  refine ⟨by rw [h.lines]; rfl, by simp [owed], by simp [owed], by simp [queued], fun src _ => ?_⟩
  simp [owed, state, ReportQueue.noticesOf, queued]

theorem State.Fresh.dispatchLaw {t : State} (h : t.Fresh) : t.DispatchLaw := by
  have none := State.job_fresh h.slots
  have ready p : (t.port p).ready = [] := by rw [h.ports]; rfl
  refine ⟨fun p => by simp [ready], fun p i => by simp [ready, none], fun p r hr => ?_,
    fun i j hj => ?_, fun i j hj => ?_⟩
  · rw [h.ports] at hr; cases hr
  · rw [none] at hj; cases hj
  · rw [none] at hj; cases hj

theorem State.Fresh.heldLaw {t : State} (h : t.Fresh) : t.HeldLaw := by
  refine ⟨fun i j hj => ?_, fun tag lseq n hs => ?_⟩
  · rw [State.job_fresh h.slots] at hj; cases hj
  · rw [h.slot] at hs; cases hs

theorem State.Fresh.pinLaw {t : State} (h : t.Fresh) : t.PinLaw := by
  intro _
  simp only [h.line]
  exact ⟨rfl, rfl⟩

theorem State.Fresh.driveLaw {t : State} (h : t.Fresh) : t.DriveLaw := by
  intro p _ _
  rw [h.ports]
  rfl

theorem State.Fresh.bitLaw {t : State} (h : t.Fresh) : t.BitLaw := by
  intro p r hr
  rw [h.ports] at hr
  cases hr

theorem State.Fresh.captureLaw {t : State} (h : t.Fresh) : t.CaptureLaw := by
  intro l hl
  rw [h.lines] at hl
  rw [List.eq_of_mem_replicate hl]
  exact Capture.cleared_lawful

theorem State.Fresh.poolLaw {t : State} (h : t.Fresh) : t.PoolLaw := by
  unfold State.PoolLaw
  rw [h.pool]
  rfl

theorem State.Fresh.keeps {s t : State} (h : t.Fresh) (pending : t.pending = s.pending) :
    s.Keeps t where
  table _ := h.tableLaw
  queue _ := h.queueLaw
  notice _ := h.noticeLaw
  dispatch _ := h.dispatchLaw
  held _ _ := h.heldLaw
  pool _ := h.poolLaw
  pin _ := h.pinLaw
  drive _ := h.driveLaw
  bits _ := h.bitLaw
  capture _ := h.captureLaw
  pending := pending
  link _ := h.link
  ahead _ := h.ahead

/-- The blocks of a part that has been reset. -/
theorem State.fresh_of_reset (pending : List Instr) (time : Time) (timeSet : Bool) (pins : Pins)
    {link : Link} (slot : link.slot = .empty) (lawful : link.Lawful) :
    ({ State.reset with
        pending := pending, time := time, timeSet := timeSet, pins := pins, link := link } :
      State).Fresh where
  slots := rfl
  pool := rfl
  lines := rfl
  ports p := by cases p <;> rfl
  reports := rfl
  ahead := rfl
  slot := slot
  link := lawful

theorem State.reset_fresh : State.reset.Fresh :=
  State.fresh_of_reset [] 0 false Pins.released rfl (Link.reset_lawful 0)

theorem State.resetBlocks_fresh (s : State) (r : Reply) : (s.resetBlocks r).Fresh :=
  State.fresh_of_reset s.pending s.time s.timeSet s.pins
    (link := { Link.reset s.link.rate with sent := r.levels }) rfl (Link.reset_lawful s.link.rate)

theorem State.resetBlocks_steady (s : State) (r : Reply) : s.Steady (s.resetBlocks r) where
  toKeeps := (s.resetBlocks_fresh r).keeps rfl
  time := rfl
  timeSet := rfl

/-! ### A request that is taken -/

/-- A request in hand that can be taken (R166). -/
theorem State.requestOf_eq_some {s : State} {k : Kind} {r : Request} (h : s.requestOf k = some r) :
    s.link.inHand = some r ∧ r.kind = k.code ∧ s.link.canTake = true := by
  unfold State.requestOf at h
  split at h
  · rename_i x hx
    split at h
    · rename_i c
      simp only [Bool.and_eq_true, beq_iff_eq] at c
      cases h
      exact ⟨hx, c⟩
    · cases h
  · cases h

theorem Link.canTake_room {l : Link} (h : l.canTake = true) :
    l.tx.length < 4 ∧ ∀ w, l.slot ≠ .waitingRoom w := by
  unfold Link.canTake at h
  simp only [Bool.and_eq_true, decide_eq_true_eq] at h
  obtain ⟨room, free⟩ := h
  refine ⟨room, fun w hw => ?_⟩
  rw [hw] at free
  cases free

/-- Between two requests the link holds one more reply and no request (R166, R167). -/
theorem Link.Lawful.answered {l : Link} (law : l.Lawful) (inHand : l.inHand ≠ none)
    (can : l.canTake = true) (x : Reply) :
    ({ l with inHand := none, tx := l.tx ++ [x] } : Link).Lawful := by
  obtain ⟨-, low, high, -, reset⟩ := law
  obtain ⟨room, free⟩ := Link.canTake_room can
  refine ⟨by simp; omega, low, high, fun w hw => absurd hw (free w), fun pending => ?_⟩
  exact absurd (reset pending).1 inHand

/-- What a request does between the moment it leaves the hand and its reply: the link stands. -/
structure State.Effect (u v : State) : Prop where
  blocks  : u.BlocksKept v
  link    : v.link = u.link
  time    : v.time = u.time
  timeSet : v.timeSet = u.timeSet
  ahead   : v.tick.ahead = u.tick.ahead

theorem State.Effect.refl (u : State) : u.Effect u := ⟨State.BlocksKept.refl u, rfl, rfl, rfl, rfl⟩

theorem Moves.effect {u v : State} (m : Moves u.BitLaw u v) (free : u.link.slot = .empty) :
    u.Effect v where
  blocks := m.blocksKept
  link := m.framed.link.idle (by simp [free])
  time := m.framed.time
  timeSet := m.framed.timeSet
  ahead := m.framed.ahead

theorem State.emptyHand_blocksKept (s : State) : s.BlocksKept s.emptyHand :=
  s.setLink_blocksKept (Link.HoldsAs.of_slot rfl)

/-- A request is taken, carried out and answered; the clock may move. -/
theorem State.answered_keeps {s v : State} {r : Request} (inHand : s.link.inHand = some r)
    (can : s.link.canTake = true) (blocks : s.emptyHand.BlocksKept v) (link : v.link = s.emptyHand.link)
    (ahead : v.tick.ahead = s.tick.ahead) (x : Reply) : s.Keeps (v.pushReply x) where
  toBlocksKept := (s.emptyHand_blocksKept.trans blocks).trans
    (v.setLink_blocksKept (Link.HoldsAs.of_slot rfl))
  link law := by
    have e : (v.pushReply x).link = { s.link with inHand := none, tx := s.link.tx ++ [x] } := by
      simp only [State.pushReply, State.setLink_link, link]
      rfl
    rw [State.linkLaw_iff, e]
    exact Link.Lawful.answered law (by simp [inHand]) can x
  ahead h := ahead.trans h

theorem State.Effect.steady {s v : State} {r : Request} (inHand : s.link.inHand = some r)
    (can : s.link.canTake = true) (e : s.emptyHand.Effect v) (x : Reply) :
    s.Steady (v.pushReply x) where
  toKeeps := State.answered_keeps inHand can e.blocks e.link e.ahead x
  time := e.time
  timeSet := e.timeSet

/-- A request whose body keeps every law. -/
theorem State.serve_rel {R : State → Prop} {s : State} {k : Kind} {open_ : Request → Bool}
    {body : Request → State → State} (none : R s)
    (refused : ∀ r payload, s.requestOf k = some r → R (s.emptyHand.answer r payload))
    (body' : ∀ r, s.requestOf k = some r → s.link.slot.isHeld = false ∨ open_ r = true →
      k.sizeOk r.payload.length = true → R (body r s.emptyHand)) : R (s.serve k open_ body) := by
  unfold State.serve
  split
  · exact none
  · rename_i r hr
    split
    · exact refused r _ hr
    · rename_i size
      split
      · exact refused r _ hr
      · rename_i c
        refine body' r hr ?_ (by simpa using size)
        cases hs : s.link.slot.isHeld with
        | false => exact .inl rfl
        | true => exact .inr (by simpa [hs] using c)

theorem State.answer_steady {s : State} {k : Kind} {r : Request} (h : s.requestOf k = some r)
    (payload : List Byte) : s.Steady (s.emptyHand.answer r payload) := by
  obtain ⟨inHand, -, can⟩ := State.requestOf_eq_some h
  exact State.Effect.steady inHand can (State.Effect.refl _) _

theorem HeldSlot.empty_of {x : HeldSlot} (h : x.isHeld = false) : x = .empty := by
  cases x <;> simp [HeldSlot.isHeld] at h ⊢

/-- A request that is refused while a reply is held: its effect comes before its reply. -/
theorem State.serve_steady (s : State) (k : Kind) {f : List Byte → State → State × List Byte}
    (effect : ∀ p (u : State), u.link.slot = .empty → u.Effect (f p u).1) :
    s.Steady (s.serve k openNever (replying f)) := by
  refine State.serve_rel (State.Steady.refl s) (fun r p h => State.answer_steady h p)
    fun r h free _ => ?_
  obtain ⟨inHand, -, can⟩ := State.requestOf_eq_some h
  have empty := HeldSlot.empty_of (free.resolve_right (by simp [openNever]))
  exact State.Effect.steady inHand can (effect r.payload s.emptyHand empty) _

/-- A request that reads only. -/
theorem State.serve_read_steady (s : State) (k : Kind) (open_ : Request → Bool)
    (f : List Byte → State → List Byte) :
    s.Steady (s.serve k open_ (replying fun p u => (u, f p u))) :=
  State.serve_rel (State.Steady.refl s) (fun _ p h => State.answer_steady h p)
    fun _ h _ _ => State.answer_steady h _

end Sys2Proof.Machine
end


section
/-! SUPPORT. What each command keeps: the host link's own commands, the event unit's, the ports' and the
jobs' on the wire. -/

namespace Sys2Proof.Machine

theorem State.beforeEvent_steady (s : State) : s.Steady s.beforeEvent := s.beforeEvent_moves.steady

/-- What comes after the evaluation and the act of the event unit that has begun. -/
theorem State.Steady.afterEvent {s t : State} (h : s.beforeEvent.Steady t) : s.Steady t :=
  s.beforeEvent_steady.trans h

theorem Moves.afterEvent {s t : State} (m : Moves s.beforeEvent.BitLaw s.beforeEvent t) : s.Steady t :=
  State.Steady.afterEvent m.steady

theorem Moves.afterWire {s t : State} {p : PortId} (m : Moves (s.beforeWire p).BitLaw (s.beforeWire p) t) :
    s.Steady t := (s.beforeWire_moves p).steady.trans m.steady

/-! ### The parser and the transmit queue -/

/-- From `l` to `l'` the parser has moved, and a request may have come to the hand where no RESET is
pending (R164, R165, R173). -/
structure Link.Parsed (l l' : Link) : Prop where
  tx      : l'.tx = l.tx
  limit   : l'.holdLimit = l.holdLimit
  slot    : l'.slot = l.slot
  pending : l'.resetPending = l.resetPending
  inHand  : l.resetPending = true → l'.inHand = l.inHand

theorem Link.Parsed.trans {l l' l'' : Link} (h : l.Parsed l') (k : l'.Parsed l'') : l.Parsed l'' :=
  ⟨k.tx.trans h.tx, k.limit.trans h.limit, k.slot.trans h.slot, k.pending.trans h.pending,
    fun c => (k.inHand (h.pending.trans c)).trans (h.inHand c)⟩

theorem Link.Parsed.refl (l : Link) : l.Parsed l := ⟨rfl, rfl, rfl, rfl, fun _ => rfl⟩

theorem Link.Parsed.lawful {l l' : Link} (h : l.Parsed l') (law : l.Lawful) : l'.Lawful := by
  obtain ⟨room, low, high, full, reset⟩ := law
  refine ⟨by rw [h.tx]; exact room, by rw [h.limit]; exact low, by rw [h.limit]; exact high,
    fun w hw => ?_, fun c => ?_⟩
  · rw [h.tx, h.pending]; exact full w (h.slot ▸ hw)
  · rw [h.pending] at c
    rw [h.inHand c, h.tx]
    exact reset c

theorem State.setLink_parsed (s : State) {l : Link} (h : s.link.Parsed l) : s.Steady (s.setLink l) :=
  s.setLink_steady (Link.HoldsAs.of_slot h.slot) h.lawful

theorem Link.dropFrame_parsed (l : Link) : l.Parsed l.dropFrame := ⟨rfl, rfl, rfl, rfl, fun _ => rfl⟩

theorem Link.closeGap_parsed (l : Link) : l.Parsed l.closeGap := by
  unfold Link.closeGap
  split
  · exact l.dropFrame_parsed
  · exact Link.Parsed.refl l

theorem Link.complete_parsed (l : Link) (bytes : List Byte) : l.Parsed (l.complete bytes) := by
  unfold Link.complete
  dsimp only
  split
  · split
    · rename_i c
      simp only [Bool.and_eq_true, Bool.not_eq_true'] at c
      exact ⟨rfl, rfl, rfl, rfl, fun p => by rw [c.2] at p; cases p⟩
    · exact l.dropFrame_parsed
  · exact l.dropFrame_parsed

theorem Link.frameByte_parsed (l : Link) (b : Byte) : l.Parsed (l.frameByte b) := by
  have moved (x : Parser) : l.Parsed { l with parser := x, gap := 0 } := ⟨rfl, rfl, rfl, rfl, fun _ => rfl⟩
  unfold Link.frameByte
  split
  · split
    · exact moved _
    · exact Link.Parsed.refl l
  · exact moved _
  · dsimp only
    split
    · exact moved _
    · exact l.dropFrame_parsed
  · split
    · exact moved _
    · exact moved _
  · exact moved _
  · split
    · exact l.complete_parsed _
    · exact l.dropFrame_parsed

theorem Link.takeByte_parsed (l : Link) (b : Byte) (framing : Bool) : l.Parsed (l.takeByte b framing) := by
  unfold Link.takeByte
  split
  · split
    · exact Link.Parsed.refl l
    · exact l.dropFrame_parsed
  · exact l.frameByte_parsed b

/-- The OK reply of a RESET is last in the queue, and it leaves last (R173). -/
theorem Link.Lawful.sent {l : Link} (law : l.Lawful) {r : Reply} {rest : List Reply}
    (tx : l.tx = r :: rest) (notReset : l.resetReply = none) :
    l.resetPending = true → ∃ ahead lseq,
      rest = ahead ++ [{ kind := 0x8F, lseq := lseq, payload := [0x00] }] := by
  intro pending
  obtain ⟨-, -, -, -, reset⟩ := law
  obtain ⟨-, ahead, lseq, e⟩ := reset pending
  cases ahead with
  | nil =>
    have : l.resetReply = some { kind := 0x8F, lseq := lseq, payload := [0x00] } := by
      unfold Link.resetReply
      rw [if_pos pending, e]
      rfl
    rw [this] at notReset
    cases notReset
  | cons x ahead =>
    rw [tx] at e
    injection e with _ e
    exact ⟨ahead, lseq, e⟩

theorem State.sendHead_steady (s : State) {r : Reply} {rest : List Reply} (tx : s.link.tx = r :: rest)
    (notReset : s.link.resetReply = none) : s.Steady (s.sendHead r rest) := by
  have shorter (l : Link) (law : s.link.Lawful) : (l.tx = rest) → l.holdLimit = s.link.holdLimit →
      l.resetPending = s.link.resetPending → l.inHand = s.link.inHand →
      (∀ w, l.slot = .waitingRoom w → s.link.resetPending = true) → l.Lawful := by
    intro htx limit pending hand room
    have last := law.sent tx notReset
    obtain ⟨len, low, high, -, reset⟩ := law
    rw [tx] at len
    simp only [List.length_cons] at len
    refine ⟨by rw [htx]; omega, by rw [limit]; exact low, by rw [limit]; exact high,
      fun w hw => .inr (by rw [pending]; exact room w hw), fun c => ?_⟩
    rw [pending] at c
    rw [hand, htx]
    exact ⟨(reset c).1, last c⟩
  unfold State.sendHead
  dsimp only
  split
  · rename_i held hs
    split
    · rename_i pending
      exact s.setLink_steady (Link.HoldsAs.of_slot rfl)
        (fun law => shorter _ law rfl rfl rfl rfl fun _ _ => pending)
    · rename_i pending
      refine s.setLink_steady (fun tag lseq => by simp [hs]) fun law => ?_
      obtain ⟨len, low, high, -, -⟩ := law
      rw [tx] at len
      simp only [List.length_cons] at len
      exact ⟨by simp; omega, low, high, nofun, fun c => absurd c pending⟩
  · rename_i hs
    exact s.setLink_steady (Link.HoldsAs.of_slot rfl)
      (fun law => shorter _ law rfl rfl rfl rfl fun w hw => by rw [hs] at hw; cases hw)
  · rename_i hs
    exact s.setLink_steady (Link.HoldsAs.of_slot rfl)
      (fun law => shorter _ law rfl rfl rfl rfl fun w hw => by rw [hs] at hw; cases hw)

theorem execResetTakesEffect_steady (s : State) :
    ∃ t, execResetTakesEffect s = .next t ∧ s.Steady t := by
  refine ⟨_, rfl, State.Steady.afterEvent ?_⟩
  split
  · exact State.resetBlocks_steady _ _
  · exact State.Steady.refl _

theorem execReplySent_steady (s : State) : ∃ t, execReplySent s = .next t ∧ s.Steady t := by
  refine ⟨_, rfl, State.Steady.afterEvent ?_⟩
  split
  · exact State.resetBlocks_steady _ _
  · rename_i notReset
    split
    · exact State.Steady.refl _
    · rename_i tx
      exact State.sendHead_steady _ tx notReset

theorem execByteReceived_steady (data : List Bool) (stop : Bool) (s : State) :
    ∃ t, execByteReceived data stop s = .next t ∧ s.Steady t := by
  refine ⟨_, rfl, State.Steady.afterEvent ?_⟩
  split
  · exact State.setLink_parsed _ ((Link.closeGap_parsed _).trans (Link.takeByte_parsed _ _ _))
  · exact State.Steady.refl _

theorem execGapTimeout_steady (s : State) : ∃ t, execGapTimeout s = .next t ∧ s.Steady t := by
  refine ⟨_, rfl, State.Steady.afterEvent ?_⟩
  split
  · exact State.setLink_parsed _ (Link.dropFrame_parsed _)
  · exact State.Steady.refl _

theorem execUnknownKind_steady (s : State) : ∃ t, execUnknownKind s = .next t ∧ s.Steady t := by
  refine ⟨_, rfl, State.Steady.afterEvent ?_⟩
  split
  · rename_i r hr
    split
    · rename_i c
      simp only [Bool.and_eq_true] at c
      exact State.Effect.steady hr c.2 (State.Effect.refl _) _
    · exact State.Steady.refl _
  · exact State.Steady.refl _

theorem Link.holdDue_held {l : Link} (h : l.holdDue = true) : ∃ tag lseq n, l.slot = .held tag lseq n := by
  unfold Link.holdDue at h
  split at h
  · rename_i tag lseq n hs; exact ⟨tag, lseq, n, hs⟩
  · cases h
  · cases h

theorem execHoldLimit_steady (s : State) : ∃ t, execHoldLimit s = .next t ∧ s.Steady t := by
  refine ⟨_, rfl, State.Steady.afterEvent ?_⟩
  split
  · rename_i due
    exact (Move.elapse _ (Link.holdDue_held due)).moves.steady
  · exact State.Steady.refl _

/-! ### Requests of the link -/

theorem execPing_steady (s : State) : ∃ t, execPing s = .next t ∧ s.Steady t :=
  ⟨_, rfl, State.Steady.afterEvent (State.serve_read_steady _ .ping openAlways fun _ u => u.pingPayload)⟩

theorem execGetSummary_steady (s : State) : ∃ t, execGetSummary s = .next t ∧ s.Steady t :=
  ⟨_, rfl, State.Steady.afterEvent
    (State.serve_read_steady _ .getSummary openAlways fun _ u => u.summaryPayload)⟩

/-- SET_LINK replaces the hold limit, which is then in its range (R170). -/
theorem setLinkEffect_steady {s : State} {r : Request} {k : Kind} (h : s.requestOf k = some r) :
    s.Steady (replying setLinkEffect r s.emptyHand) := by
  unfold replying setLinkEffect
  split
  · exact State.answer_steady h _
  · rename_i notZero
    split
    · exact State.answer_steady h _
    · split
      · exact State.answer_steady h _
      · obtain ⟨inHand, -, can⟩ := State.requestOf_eq_some h
        have attn (u : State) (q : ReportQueue) (owed : q.owed = u.reports.owed)
            (queued : q.queued = u.reports.queued) (reserved : q.reserved = u.reports.reserved) :
            u.BlocksKept (u.setReports q) := (Move.reports u q owed queued reserved).moves.blocksKept
        refine ⟨⟨((s.emptyHand_blocksKept.trans (attn _ _ (by rfl) (by rfl) (by rfl))).trans
          (State.setLink_blocksKept _ (Link.HoldsAs.of_slot (by rfl)))).trans
          (State.setLink_blocksKept _ (Link.HoldsAs.of_slot (by rfl))), fun law => ?_, id⟩, rfl, rfl⟩
        obtain ⟨len, -, -, full, reset⟩ := Link.Lawful.answered law (by simp [inHand]) can
          (r.reply [Status.ok.code])
        have low : 1 ≤ (byteAt r.payload 0).toNat := by
          rw [Nat.one_le_iff_ne_zero]
          intro c
          refine notZero (beq_iff_eq.2 (BitVec.eq_of_toNat_eq ?_))
          rw [c]
          rfl
        have high := (byteAt r.payload 0).isLt
        exact ⟨len, low, by show (byteAt r.payload 0).toNat ≤ 255; omega, full, reset⟩

theorem execSetLink_steady (s : State) : ∃ t, execSetLink s = .next t ∧ s.Steady t :=
  ⟨_, rfl, State.Steady.afterEvent (State.serve_rel (State.Steady.refl _)
    (fun _ p h => State.answer_steady h p) fun _ h _ _ => setLinkEffect_steady h)⟩

/-- RESET leaves its OK reply last in the queue (R173). -/
theorem resetEffect_steady {s : State} {r : Request} (h : s.requestOf .reset = some r) :
    s.Steady (replying resetEffect r s.emptyHand) := by
  obtain ⟨inHand, kind, can⟩ := State.requestOf_eq_some h
  refine ⟨⟨(s.emptyHand_blocksKept.trans (State.setLink_blocksKept _ (Link.HoldsAs.of_slot rfl))).trans
    (State.setLink_blocksKept _ (Link.HoldsAs.of_slot rfl)), fun law => ?_, id⟩, rfl, rfl⟩
  obtain ⟨len, low, high, -, -⟩ := Link.Lawful.answered law (by simp [inHand]) can
    (r.reply [Status.ok.code])
  refine ⟨len, low, high, fun _ _ => .inr rfl, fun _ => ⟨rfl, s.link.tx, r.lseq, ?_⟩⟩
  show s.link.tx ++ [r.reply [Status.ok.code]] = _
  simp only [Request.reply, kind]
  rfl

theorem execReset_steady (s : State) : ∃ t, execReset s = .next t ∧ s.Steady t :=
  ⟨_, rfl, State.Steady.afterEvent (State.serve_rel (State.Steady.refl _)
    (fun _ p h => State.answer_steady h p) fun _ h _ _ => resetEffect_steady h)⟩

theorem execGetTime_steady (s : State) : ∃ t, execGetTime s = .next t ∧ s.Steady t :=
  ⟨_, rfl, State.Steady.afterEvent (State.serve_read_steady _ .getTime openNever fun _ u => u.timePayload)⟩

/-! ### The event unit -/

/-- The settings of a line that CONFIG_LINE gives, port B in the way of EV6 and EV7 (R68, R69). -/
theorem configLineEffect_effect (p : List Byte) (u : State) (empty : u.link.slot = .empty) :
    u.Effect (configLineEffect p u).1 := by
  unfold configLineEffect
  split
  · exact State.Effect.refl u
  · rename_i n c _
    split
    · exact State.Effect.refl u
    · rename_i free
      refine Moves.effect (Move.line u n { u.line n with config := c } rfl ?_ fun h => h).moves empty
      simp only [Bool.and_eq_true, decide_eq_true_eq, bne_iff_ne, not_and, not_not] at free
      by_cases low : n < 6
      · exact .inr (.inr (.inl low))
      · by_cases off : c.edge = .off
        · exact .inr (.inl off)
        · exact .inr (.inr (.inr (free ⟨by omega, off⟩)))

theorem execConfigLine_steady (s : State) : ∃ t, execConfigLine s = .next t ∧ s.Steady t :=
  ⟨_, rfl, s.beforeLineEvent_moves.steady.trans (State.serve_steady _ _ configLineEffect_effect)⟩

theorem execGetCapture_steady (s : State) : ∃ t, execGetCapture s = .next t ∧ s.Steady t :=
  ⟨_, rfl, s.beforeLineEvent_moves.steady.trans
    (State.serve_read_steady _ .getCapture openNever fun p u => u.capturePayload p)⟩

theorem clearCaptureEffect_effect (p : List Byte) (u : State) (empty : u.link.slot = .empty) :
    u.Effect (clearCaptureEffect p u).1 := by
  unfold clearCaptureEffect
  dsimp only
  split
  · exact State.Effect.refl u
  · split
    · exact (Move.clear u _).moves.effect empty
    · exact State.Effect.refl u

theorem execClearCapture_steady (s : State) : ∃ t, execClearCapture s = .next t ∧ s.Steady t :=
  ⟨_, rfl, State.Steady.afterEvent (State.serve_steady _ _ clearCaptureEffect_effect)⟩

theorem execEdgeDetected_steady (line : Nat) (s : State) :
    ∃ t, execEdgeDetected line s = .next t ∧ s.Steady t := by
  refine ⟨_, rfl, (State.finishTimeBase_moves s).steady.trans ?_⟩
  split
  · split
    · exact Moves.steady (((Move.tick _ _ (by rfl)).moves.trans (State.detectEdge_moves _ _)).trans
        (State.closeEvents_moves _))
    · exact State.Steady.refl _
  · exact State.Steady.refl _

theorem execEventTrigger_steady (tag : Tag) (s : State) :
    ∃ t, execEventTrigger tag s = .next t ∧ s.Steady t := by
  refine ⟨_, rfl, (State.finishTimeBase_moves s).steady.trans ?_⟩
  split
  · split
    · exact Moves.steady (((Move.tick _ _ (by rfl)).moves.trans (State.fireEvent_moves _ _)).trans
        (State.closeEvents_moves _))
    · exact State.Steady.refl _
  · exact State.Steady.refl _

/-! ### The time base's evaluation -/

theorem execDeadlineExpiry_steady (tag : Tag) (s : State) :
    ∃ t, execDeadlineExpiry tag s = .next t ∧ s.Steady t := by
  refine ⟨_, rfl, s.finishEventIfBegun_moves.steady.trans ?_⟩
  split
  · split
    · rename_i hv
      exact Moves.steady ((State.expire_moves hv).trans (State.setEvals_moves _ _))
    · exact State.Steady.refl _
  · exact State.Steady.refl _

theorem execAtTrigger_steady (tag : Tag) (s : State) :
    ∃ t, execAtTrigger tag s = .next t ∧ s.Steady t := by
  refine ⟨_, rfl, s.finishEventIfBegun_moves.steady.trans ?_⟩
  split
  · split
    · rename_i hv
      exact Moves.steady ((State.fireAt_moves hv).trans (State.setEvals_moves _ _))
    · exact State.Steady.refl _
  · exact State.Steady.refl _

theorem execEveryMatch_steady (tag : Tag) (s : State) :
    ∃ t, execEveryMatch tag s = .next t ∧ s.Steady t := by
  refine ⟨_, rfl, s.finishEventIfBegun_moves.steady.trans ?_⟩
  split
  · split
    · rename_i hv
      exact Moves.steady ((State.matchEvery_moves hv).trans (State.setEvals_moves _ _))
    · exact State.Steady.refl _
  · exact State.Steady.refl _

/-! ### The ports -/

theorem State.noRun_of_notBusy {s : State} {p : PortId} (h : (s.port p).state.busy = false) :
    s.NoRun p := by
  unfold State.NoRun
  cases hs : (s.port p).state <;> simp [hs, PortState.busy, PortState.runSlot] at h ⊢

theorem configPortEffect_effect (lines : Levels) (p : List Byte) (u : State)
    (empty : u.link.slot = .empty) : u.Effect (configPortEffect lines p u).1 := by
  unfold configPortEffect
  split
  · exact State.Effect.refl u
  · rename_i port c _
    split
    · exact State.Effect.refl u
    · rename_i notBusy
      split
      · exact State.Effect.refl u
      · rename_i free
        have read : (u.readLines port lines).sharedLineWatches = u.sharedLineWatches := by
          cases port <;> rfl
        have idle : (u.readLines port lines).NoRun port :=
          (State.noRun_of_notBusy (by simpa using notBusy)).congr (by cases port <;> rfl)
        refine Moves.effect ((u.readLines_moves port lines).trans (idle.applySettings_moves c ?_)) empty
        rw [read]
        simp only [Bool.and_eq_true, beq_iff_eq, bne_iff_ne, not_and, Bool.not_eq_true] at free
        cases port with
        | a => exact .inl rfl
        | b =>
          by_cases off : c.mode = .off
          · exact .inr (.inl off)
          · exact .inr (.inr (free ⟨rfl, off⟩))

theorem execConfigPort_steady (lines : Levels) (s : State) :
    ∃ t, execConfigPort lines s = .next t ∧ s.Steady t :=
  ⟨_, rfl, State.Steady.afterEvent (State.serve_steady _ _ (configPortEffect_effect lines))⟩

theorem execGetPort_steady (s : State) : ∃ t, execGetPort s = .next t ∧ s.Steady t :=
  ⟨_, rfl, State.Steady.afterEvent (State.serve_read_steady _ .getPort openNever fun p u => u.portPayload p)⟩

theorem readReportsEffect_effect (p : List Byte) (u : State) (empty : u.link.slot = .empty) :
    u.Effect (readReportsEffect p u).1 := by
  unfold readReportsEffect
  dsimp only
  split
  · exact State.Effect.refl u
  · exact (u.removeReports_moves _).effect empty

theorem execReadReports_steady (s : State) : ∃ t, execReadReports s = .next t ∧ s.Steady t :=
  ⟨_, rfl, State.Steady.afterEvent (State.serve_steady _ _ readReportsEffect_effect)⟩

theorem execAttnPulseEnd_steady (s : State) : ∃ t, execAttnPulseEnd s = .next t ∧ s.Steady t := by
  refine ⟨_, rfl, State.Steady.afterEvent ?_⟩
  split
  · exact (Move.reports _ _ (by rfl) (by rfl) (by rfl)).moves.steady
  · exact State.Steady.refl _

theorem execPresenceLoss_steady (p : PortId) (bits : List Bool) (s : State) :
    ∃ t, execPresenceLoss p bits s = .next t ∧ s.Steady t := by
  refine ⟨_, rfl, (Moves.afterEvent (State.passBits_moves p bits id)).trans ?_⟩
  split
  · exact (State.takePresence_moves _ p).steady
  · exact State.Steady.refl _

theorem execPresenceGain_steady (p : PortId) (s : State) :
    ∃ t, execPresenceGain p s = .next t ∧ s.Steady t := by
  refine ⟨_, rfl, State.Steady.afterEvent ?_⟩
  split
  · exact (State.takePresence_moves _ p).steady
  · exact State.Steady.refl _

theorem execSettleEnd_steady (p : PortId) (s : State) :
    ∃ t, execSettleEnd p s = .next t ∧ s.Steady t := by
  refine ⟨_, rfl, State.Steady.afterEvent ?_⟩
  split
  · rename_i due; exact ((State.noRun_of_settleDue due).endSettle_moves true).steady
  · exact State.Steady.refl _

theorem execRecoveryEnd_steady (p : PortId) (sda : List Bool) (lines : Option Levels) (s : State) :
    ∃ t, execRecoveryEnd p sda lines s = .next t ∧ s.Steady t := by
  refine ⟨_, rfl, Moves.afterWire (p := p) ?_⟩
  split
  · rename_i origin stage state
    exact (State.noRun_of_state state).finishRecovery_moves origin stage sda lines
  · exact Moves.refl _

theorem execStuckRecheck_steady (p : PortId) (s : State) :
    ∃ t, execStuckRecheck p s = .next t ∧ s.Steady t := by
  refine ⟨_, rfl, State.Steady.afterEvent ?_⟩
  split
  · rename_i due; exact (State.noRun_of_recheckDue due).recheck_moves.steady
  · exact State.Steady.refl _

theorem execBusStartSeen_steady (p : PortId) (s : State) :
    ∃ t, execBusStartSeen p s = .next t ∧ s.Steady t :=
  ⟨_, rfl, Moves.afterEvent (State.trackStart_moves _ p)⟩

theorem execBusStopSeen_steady (p : PortId) (s : State) :
    ∃ t, execBusStopSeen p s = .next t ∧ s.Steady t :=
  ⟨_, rfl, Moves.afterEvent (State.trackFree_moves _ p)⟩

theorem execTrackerTimeout_steady (p : PortId) (s : State) :
    ∃ t, execTrackerTimeout p s = .next t ∧ s.Steady t := by
  refine ⟨_, rfl, State.Steady.afterEvent ?_⟩
  split
  · exact (State.trackFree_moves _ p).steady
  · exact State.Steady.refl _

/-! ### The run on the wire -/

theorem execDispatch_steady (p : PortId) (s : State) : ∃ t, execDispatch p s = .next t ∧ s.Steady t :=
  ⟨_, rfl, Moves.afterEvent (State.dispatchPort_moves _ p)⟩

theorem State.runIn_eq_some {s : State} {p : PortId} {phase : Phase} {r : Run}
    (h : s.runIn p phase = some r) : s.run? p = some r ∧ r.phase = phase := by
  unfold State.runIn at h
  split at h
  · rename_i x hx
    split at h
    · rename_i c
      cases h
      exact ⟨hx, beq_iff_eq.1 c⟩
    · cases h
  · cases h

/-- The run of a port, in a phase that is no byte's. -/
theorem State.atRun_of_runIn {G : Prop} {s : State} {p : PortId} {phase : Phase} {r : Run}
    (h : s.runIn p phase = some r) (outside : phase.inByte = false) (law : G → s.BitLaw) :
    s.AtRun G p r := by
  obtain ⟨run, e⟩ := State.runIn_eq_some h
  exact State.atRun run (by rw [e]; exact outside) law

theorem execRunStart_steady (p : PortId) (lines : Levels) (s : State) :
    ∃ t, execRunStart p lines s = .next t ∧ s.Steady t := by
  refine ⟨_, rfl, Moves.afterEvent ?_⟩
  split
  · rename_i r run
    exact (State.readLines_moves _ p lines).trans
      ((State.atRun_of_runIn run rfl id).readLines p lines).beginRun_moves
  · exact Moves.refl _

theorem execStart_steady (x : PortLines) (s : State) : ∃ t, execStart x s = .next t ∧ s.Steady t := by
  refine ⟨_, rfl, Moves.afterWire (p := x.port) ?_⟩
  split
  · rename_i r run
    have here := State.atRun_of_runIn run rfl (G := (s.beforeWire x.port).BitLaw) id
    split
    · split
      · exact here.completeStart_moves _
      · dsimp only
        refine (State.readLines_moves _ x.port x.lines).trans ?_
        split
        · exact (here.readLines x.port x.lines).completeStart_moves _
        · exact Moves.refl _
    · exact Moves.refl _
  · exact Moves.refl _

theorem execAddress_steady (p : PortId) (bits : List Bool) (s : State) :
    ∃ t, execAddress p bits s = .next t ∧ s.Steady t :=
  ⟨_, rfl, Moves.afterWire (State.addressBits_moves p bits id)⟩

theorem execPoll_steady (p : PortId) (bits : List Bool) (s : State) :
    ∃ t, execPoll p bits s = .next t ∧ s.Steady t :=
  ⟨_, rfl, Moves.afterWire (State.pollBits_moves p bits id)⟩

theorem execWrite_steady (p : PortId) (bits : List Bool) (s : State) :
    ∃ t, execWrite p bits s = .next t ∧ s.Steady t :=
  ⟨_, rfl, Moves.afterWire (State.writeBits_moves p bits id)⟩

theorem execRead_steady (p : PortId) (bits : List Bool) (s : State) :
    ∃ t, execRead p bits s = .next t ∧ s.Steady t :=
  ⟨_, rfl, Moves.afterWire (State.readBits_moves p bits id)⟩

theorem execPollGapEnd_steady (p : PortId) (s : State) :
    ∃ t, execPollGapEnd p s = .next t ∧ s.Steady t := by
  refine ⟨_, rfl, Moves.afterEvent ?_⟩
  split
  · rename_i r run
    split
    · rename_i due
      simp only [State.pollGapDue, Bool.and_eq_true, beq_iff_eq] at due
      exact (State.atRun run (by rw [due.1]; rfl) id).endPollGap_moves
    · exact Moves.refl _
  · exact Moves.refl _

theorem execPauseHoldEnd_steady (p : PortId) (s : State) :
    ∃ t, execPauseHoldEnd p s = .next t ∧ s.Steady t := by
  refine ⟨_, rfl, Moves.afterEvent ?_⟩
  split
  · rename_i r run
    split
    · rename_i due
      simp only [State.pauseHoldDue, Bool.and_eq_true, beq_iff_eq] at due
      exact (State.atRun run (by rw [due.1]; rfl) id).nextStep_moves
    · exact Moves.refl _
  · exact Moves.refl _

theorem execPauseFreeEnd_steady (p : PortId) (s : State) :
    ∃ t, execPauseFreeEnd p s = .next t ∧ s.Steady t := by
  refine ⟨_, rfl, Moves.afterEvent ?_⟩
  split
  · rename_i r run
    split
    · rename_i due
      simp only [State.pauseFreeDue, Bool.and_eq_true, beq_iff_eq] at due
      exact (State.atRun run (by rw [due.1]; rfl) id).nextStep_moves
    · exact Moves.refl _
  · exact Moves.refl _

theorem execStop_steady (p : PortId) (s : State) : ∃ t, execStop p s = .next t ∧ s.Steady t := by
  refine ⟨_, rfl, Moves.afterWire (p := p) ?_⟩
  split
  · rename_i r run
    split
    · rename_i after hp
      exact (State.atRun run (by rw [hp]; rfl) id).completeStop_moves after
    · exact Moves.refl _
  · exact Moves.refl _

theorem execStretchTimeout_steady (p : PortId) (bits : List Bool) (s : State) :
    ∃ t, execStretchTimeout p bits s = .next t ∧ s.Steady t := by
  refine ⟨_, rfl, Moves.afterEvent ?_⟩
  split
  · exact State.stretchTimeout_moves _ p
  · exact State.passBits_moves p bits id

theorem execArbitrationLoss_steady (p : PortId) (bits : List Bool) (s : State) :
    ∃ t, execArbitrationLoss p bits s = .next t ∧ s.Steady t := by
  refine ⟨_, rfl, (Moves.afterWire (p := p) (State.passBits_moves p bits id)).trans ?_⟩
  split
  · rename_i r run
    split
    · exact ((State.atRun_any (State.run?_eq_some.1 run)).loseArbitration_moves).steady
    · exact State.Steady.refl _
  · exact State.Steady.refl _

/-! ### Requests about one job -/

theorem cancelBody_steady {s : State} {r : Request} {k : Kind} (startUnderWay : Bool)
    (h : s.requestOf k = some r) : s.Steady (cancelBody startUnderWay r s.emptyHand) := by
  unfold cancelBody
  split
  · exact State.answer_steady h _
  · split
    · exact State.answer_steady h _
    · exact (State.answer_steady h _).trans (State.cancelJob_moves _ _ startUnderWay id).steady

theorem execCancel_steady (startUnderWay : Bool) (s : State) :
    ∃ t, execCancel startUnderWay s = .next t ∧ s.Steady t :=
  ⟨_, rfl, State.Steady.afterEvent (State.serve_rel (State.Steady.refl _)
    (fun _ p h => State.answer_steady h p) fun _ h _ _ => cancelBody_steady startUnderWay h)⟩

theorem execJobStatus_steady (s : State) : ∃ t, execJobStatus s = .next t ∧ s.Steady t :=
  ⟨_, rfl, State.Steady.afterEvent
    (State.serve_read_steady _ .jobStatus openAlways fun p u => u.statusPayload p)⟩

theorem execFetch_steady (s : State) : ∃ t, execFetch s = .next t ∧ s.Steady t :=
  ⟨_, rfl, State.Steady.afterEvent (State.serve_read_steady _ .fetch openNever fun p u => u.fetchPayload p)⟩

theorem releaseEffect_effect (p : List Byte) (u : State) (empty : u.link.slot = .empty) :
    u.Effect (releaseEffect p u).1 := by
  unfold releaseEffect
  split
  · exact State.Effect.refl u
  · split
    · exact State.Effect.refl u
    · rename_i j hj
      split
      · rename_i done
        exact (Move.free u _ j hj (beq_iff_eq.1 done)).moves.effect empty
      · exact State.Effect.refl u

theorem execRelease_steady (s : State) : ∃ t, execRelease s = .next t ∧ s.Steady t :=
  ⟨_, rfl, State.Steady.afterEvent (State.serve_steady _ _ releaseEffect_effect)⟩

end Sys2Proof.Machine
end


section
/-! SUPPORT. An accepted SUBMIT: what its submission is like, and the laws under it (R7 to R12, R42). -/

namespace Sys2Proof.Machine

/-! ### Checks 1 to 4 -/

/-- Whether a trigger is an EVERY trigger (R5). -/
def Trigger.recurs : Trigger → Bool
  | .every _ _ _ => true
  | _ => false

/-- The submission that a payload spells, given what its checks have read of it. -/
def submissionOf (p : List Byte) (port : Option PortId) (trigger : Trigger) (steps : List Step)
    (w : Walk) : Submission where
  tag := tagAt p
  port := port
  trigger := trigger
  unbreakable := flagUnbreakable (byteAt p 14)
  holdReply := flagHoldReply (byteAt p 14)
  retries := (byteAt p 15).toNat
  deadline := deadlineOf p
  steps := steps
  writeLen := w.writeSum
  readTotal := w.readSum
  data := p.drop (Config.descriptorBytes + 4 * (byteAt p 22).toNat)

/-- What a payload that passes checks 1 to 4 is like (R7, R8, R9). -/
structure SubmitOk (p : List Byte) (o : Option PortId) (g : Trigger) (l : List Step) (w : Walk) :
    Prop where
  size    : sizeMatches p = true
  tag     : tagAt p ≠ 0
  port    : jobPortOfCode (byteAt p 2) = some o
  trigger : triggerOf p = .ok g
  flags   : bitsWithin descriptorFlags (byteAt p 14) = true
  retries : (byteAt p 15).toNat ≤ 7
  steps   : checkSteps (rawSteps p (byteAt p 22).toNat) = .ok (l, w)
  marker  : o.isNone = l.isEmpty
  hold    : flagHoldReply (byteAt p 14) = true → g = .now ∧ o ≠ none
  short   : g.recurs = true → w.readSum ≤ 48

/-- An accepted payload, with what its checks have read. -/
theorem parseSubmit_ok {p : List Byte} {x : Submission} (h : parseSubmit p = .ok x) :
    ∃ port trigger steps w, SubmitOk p port trigger steps w ∧
      x = submissionOf p port trigger steps w := by
  unfold parseSubmit at h
  split at h
  · cases h
  rename_i size
  split at h
  · cases h
  rename_i tag
  split at h
  · cases h
  rename_i port hport
  split at h
  · cases h
  rename_i trigger htrigger
  split at h
  · cases h
  rename_i flags
  split at h
  · cases h
  rename_i retries
  dsimp only at h
  split at h
  · cases h
  rename_i steps w hsteps
  split at h
  · cases h
  rename_i marker
  split at h
  · cases h
  rename_i hold
  have last : (trigger.recurs = true → w.readSum ≤ 48) ∧ x = submissionOf p port trigger steps w := by
    cases trigger with
    | every period phase runs =>
      dsimp only at h
      split at h
      · cases h
      · rename_i short
        exact ⟨fun _ => by simpa [Config.shortBytes] using short, (Except.ok.inj h).symm⟩
    | now => exact ⟨nofun, (Except.ok.inj h).symm⟩
    | atTime t => exact ⟨nofun, (Except.ok.inj h).symm⟩
    | event line count => exact ⟨nofun, (Except.ok.inj h).symm⟩
  refine ⟨port, trigger, steps, w, ⟨by simpa using size, by simpa using tag, hport, htrigger,
    by simpa using flags, by omega, hsteps, by simpa using marker, fun c => ?_, last.1⟩, last.2⟩
  rw [c] at hold
  simp only [Bool.true_and, Bool.or_eq_true, bne_iff_ne, not_or, not_not] at hold
  exact ⟨hold.1, fun none => hold.2 (by rw [none]; rfl)⟩

/-! ### Checks 5 to 10 -/

/-- What an admission finds (R10, R11). -/
structure State.Admits (s : State) (x : Submission) : Prop where
  tag    : ∀ i j, s.job? i = some j → j.tag ≠ x.tag
  port   : s.portOffFor x = false
  time   : x.deadline.any (fun d => decide (d.toNat ≤ s.time.toNat)) = false
  slot   : none ∈ s.slots
  blocks : x.blocksNeeded ≤ s.freeBlocks.length
  room   : 1 ≤ s.reports.room

theorem State.freeSlots_eq_zero_iff (s : State) : s.freeSlots = 0 ↔ none ∉ s.slots := by
  simp only [State.freeSlots, List.length_eq_zero_iff, List.filter_eq_nil_iff, Option.isNone_iff_eq_none]
  exact ⟨fun h c => h none c rfl, fun h o ho e => h (e ▸ ho)⟩

theorem State.admissionRefusal_eq_none {s : State} {x : Submission}
    (h : s.admissionRefusal x = none) : s.Admits x := by
  unfold State.admissionRefusal at h
  split at h
  · cases h
  rename_i tag
  split at h
  · cases h
  rename_i port
  split at h
  · cases h
  rename_i time
  split at h
  · cases h
  rename_i slot
  split at h
  · cases h
  rename_i blocks
  split at h
  · cases h
  rename_i room
  refine ⟨State.findSlot_eq_none_iff.1 (by simpa using tag), by simpa using port, by simpa using time,
    ?_, by omega, by omega⟩
  rw [State.freeSlots_eq_zero_iff] at slot
  exact not_not.1 slot

theorem State.lowestFreeSlot_lt {s : State} (h : none ∈ s.slots) :
    s.lowestFreeSlot < s.slots.length := List.findIdx_lt_length_of_exists ⟨none, h, rfl⟩

theorem State.job_lowestFreeSlot {s : State} (h : none ∈ s.slots) :
    s.job? s.lowestFreeSlot = none := by
  have hl := State.lowestFreeSlot_lt h
  have e : s.slots[s.lowestFreeSlot] = none := Option.isNone_iff_eq_none.1 (List.findIdx_getElem (w := hl))
  simpa [State.job?, List.getD_eq_getElem?_getD, hl] using e

theorem State.mem_freeBlocks {s : State} {b : Nat} : b ∈ s.freeBlocks ↔ b < 64 ∧ b ∉ s.heldBlocks := by
  simp [State.freeBlocks, Config.poolBlocks]

theorem State.freeBlocks_pairwise (s : State) : s.freeBlocks.Pairwise (· < ·) :=
  List.Pairwise.filter _ List.pairwise_lt_range

theorem State.mem_heldBlocks {s : State} {i : Nat} {j : Job} (hj : s.job? i = some j) {b : Nat}
    (hb : b ∈ j.blocks) : b ∈ s.heldBlocks := by
  have hl := State.job_lt hj
  refine List.mem_flatMap.2 ⟨some j, ?_, hb⟩
  have : s.slots[i] = some j := by simpa [State.job?, List.getD_eq_getElem?_getD, hl] using hj
  rw [← this]
  exact List.getElem_mem hl

/-! ### The new job's place (R12, R42, R44) -/

theorem State.placeJob_slots (s : State) (x : Submission) :
    (s.placeJob x).slots = s.slots.set s.lowestFreeSlot (some (s.admittedJob x)) := rfl

theorem State.placeJob_port (s : State) (x : Submission) (p : PortId) :
    (s.placeJob x).port p = s.port p := by cases p <;> rfl

theorem State.Admits.job {s : State} {x : Submission} (h : s.Admits x) (i : Nat) :
    (s.placeJob x).job? i = if i = s.lowestFreeSlot then some (s.admittedJob x) else s.job? i :=
  State.job_of_set (s.placeJob_slots x) (State.lowestFreeSlot_lt h.slot) i

theorem State.admittedJob_lawful (s : State) (x : Submission) : (s.admittedJob x).Lawful := by
  refine ⟨?_, ?_, nofun, fun _ => ⟨rfl, rfl⟩⟩
  · show true = true ↔ JobState.pending ≠ .done
    decide
  · show false = true ↔ _ ∧ (JobState.pending = .ready ∨ JobState.pending = .active)
    simp

theorem State.Admits.tableLaw {s : State} {x : Submission} (h : s.Admits x) (tag : x.tag ≠ 0)
    (law : s.TableLaw) : (s.placeJob x).TableLaw := by
  obtain ⟨count, fits, distinct⟩ := law
  have apart (i : Nat) (j : Job) (hj : s.job? i = some j) :
      j.tag ≠ x.tag ∧ ∀ b ∈ j.blocks, b ∉ (s.admittedJob x).blocks :=
    ⟨h.tag i j hj, fun b hb hc =>
      (State.mem_freeBlocks.1 (List.mem_of_mem_take hc)).2 (State.mem_heldBlocks hj hb)⟩
  refine ⟨by rw [s.placeJob_slots, List.length_set, count], fun i j hj => ?_, fun i i' j j' hj hj' hi => ?_⟩
  · rw [h.job] at hj
    split at hj
    · rw [← Option.some.inj hj]
      refine ⟨tag, ?_, s.freeBlocks_pairwise.sublist (List.take_sublist _ _), fun b hb =>
        (State.mem_freeBlocks.1 (List.mem_of_mem_take hb)).1⟩
      show (s.freeBlocks.take x.blocksNeeded).length = x.blocksNeeded
      rw [List.length_take, Nat.min_eq_left h.blocks]
    · exact fits i j hj
  · rw [h.job] at hj hj'
    split at hj
    · rename_i e
      rw [if_neg (fun c => hi (e.trans c.symm))] at hj'
      rw [← Option.some.inj hj]
      exact ⟨(apart i' j' hj').1.symm, fun b hb hc => (apart i' j' hj').2 b hc hb⟩
    · split at hj'
      · rw [← Option.some.inj hj']; exact apart i j hj
      · exact distinct i i' j j' hj hj' hi

theorem State.Admits.queueLaw {s : State} {x : Submission} (h : s.Admits x) (law : s.QueueLaw) :
    (s.placeJob x).QueueLaw := by
  obtain ⟨holds, free⟩ := (State.queueLaw_iff s).1 law
  refine (State.queueLaw_iff _).2 ⟨?_, fun i j hj => ?_⟩
  · have sum := reservationsIn_set s.slots s.lowestFreeSlot (some (s.admittedJob x))
      (State.lowestFreeSlot_lt h.slot)
    have none : s.slots.getD s.lowestFreeSlot none = none := State.job_lowestFreeSlot h.slot
    rw [none] at sum
    refine (State.reserve_queueHolds (l := s.slots.set s.lowestFreeSlot (some (s.admittedJob x))) holds
      h.room ?_).congr rfl rfl rfl rfl
    simpa [reservationsOf, Job.reservations, State.admittedJob] using sum
  · rw [h.job] at hj
    split at hj
    · rw [← Option.some.inj hj]; exact fun _ => rfl
    · exact free i j hj

theorem State.noticeLaw_placeJob {s : State} {x : Submission} (law : s.NoticeLaw) :
    (s.placeJob x).NoticeLaw :=
  law.congr rfl (fun src => by
    cases src with
    | line n => rfl
    | port p => simp only [State.noticeState, State.placeJob_port]) rfl rfl

theorem State.Admits.dispatchLaw {s : State} {x : Submission} (h : s.Admits x) (law : s.DispatchLaw) :
    (s.placeJob x).DispatchLaw := by
  have law := (State.dispatchLaw_iff s).1 law
  have none := State.job_lowestFreeSlot h.slot
  refine (State.dispatchLaw_iff _).2 (law.replace (slot := s.lowestFreeSlot) h.job
    (fun p => by rw [s.placeJob_port]; exact law.nodup p) (fun p i _ => by rw [s.placeJob_port])
    (fun p => ⟨fun hm => ?_, fun ⟨j, hj, hs, _⟩ => ?_⟩) (fun p i _ => by rw [s.placeJob_port])
    (fun p => ⟨fun hr => ?_, fun ⟨j, hj, hs, _⟩ => ?_⟩) fun j hj => ?_)
  · rw [s.placeJob_port, law.listed p, none] at hm
    obtain ⟨j, hj, -⟩ := hm
    cases hj
  · rw [← Option.some.inj hj] at hs; cases hs
  · rw [s.placeJob_port, law.runs p, none] at hr
    obtain ⟨j, hj, -⟩ := hr
    cases hj
  · rw [← Option.some.inj hj] at hs; cases hs
  · rw [← Option.some.inj hj]
    exact ⟨s.admittedJob_lawful x, nofun⟩

/-- No reply is held of any job. -/
theorem State.HeldLaw.notHeld {s : State} (law : s.HeldLaw) (empty : s.link.slot = .empty) {i : Nat}
    {j : Job} (hj : s.job? i = some j) : j.replyHeld = false := by
  by_contra c
  obtain ⟨lseq, n, hs⟩ := (law.1 i j hj).1.1 (by simpa using c)
  rw [empty] at hs
  cases hs

theorem State.Admits.heldLaw {s : State} {x : Submission} (h : s.Admits x)
    (empty : s.link.slot = .empty) (notHeld : x.holdReply = false) (law : s.HeldLaw) :
    (s.placeJob x).HeldLaw := by
  have slot : (s.placeJob x).link.slot = .empty := empty
  refine ⟨fun i j hj => ?_, fun tag lseq n hs => ?_⟩
  · have : j.replyHeld = false := by
      rw [h.job] at hj
      split at hj
      · rw [← Option.some.inj hj]; exact notHeld
      · exact law.notHeld empty hj
    simp [this, slot]
  · rw [slot] at hs; cases hs

/-! ### The first state of an accepted job -/

theorem State.admits_effectOf_trigger {s : State} {x : Submission} (h : s.Admits x) {G : Prop} :
    Moves G (s.placeJob x) (s.accept x) := by
  unfold State.accept
  dsimp only
  split
  · rename_i now
    refine (Move.trigger (s.placeJob x) s.lowestFreeSlot (s.admittedJob x) s.time false ?_ rfl ?_).moves
    · rw [h.job, if_pos rfl]
    · have : (s.admittedJob x).trigger = .now := beq_iff_eq.1 now
      simp only [Job.recurring, this]
  · exact Moves.refl _

/-- The blocks under an acceptance; what a held reply needs besides is the link's. -/
theorem State.Admits.accept_laws {s : State} {x : Submission} (h : s.Admits x) (tag : x.tag ≠ 0) :
    (s.TableLaw → (s.accept x).TableLaw) ∧ (s.QueueLaw → (s.accept x).QueueLaw) ∧
    (s.NoticeLaw → (s.accept x).NoticeLaw) ∧ (s.DispatchLaw → (s.accept x).DispatchLaw) := by
  have m : Moves True (s.placeJob x) (s.accept x) := State.admits_effectOf_trigger h
  exact ⟨fun law => m.lawsKept.table (h.tableLaw tag law), fun law => m.lawsKept.queue (h.queueLaw law),
    fun law => m.lawsKept.notice (State.noticeLaw_placeJob law),
    fun law => m.lawsKept.dispatch (h.dispatchLaw law)⟩

/-- The state with an accepted job but for the pool, the counter, the jobs and the reports. -/
theorem State.placeJob_framed (s : State) (x : Submission) {G : Prop} : s.Framed G (s.placeJob x) :=
  State.sameFields_framed rfl rfl rfl rfl (Memory.wf_writeBytes _ _ _ _) rfl rfl
    (s.placeJob_port x)

theorem State.Admits.framed {s : State} {x : Submission} (h : s.Admits x) {G : Prop} :
    s.Framed G (s.accept x) :=
  (s.placeJob_framed x).trans (State.admits_effectOf_trigger h).framed

/-- A NOW job of a port is READY at the tail of the port's list (R12, R15). -/
theorem State.Admits.accept_now {s : State} {x : Submission} (h : s.Admits x)
    (now : x.trigger = .now) {p : PortId} (port : x.port = some p) :
    s.accept x = ((s.placeJob x).setJob s.lowestFreeSlot
      ((s.admittedJob x).triggered s.time false)).joinTail p s.lowestFreeSlot := by
  unfold State.accept
  rw [now]
  exact State.triggerJob_port s.time false (by rw [h.job, if_pos rfl]) rfl port

/-- An accepted job whose reply is held (R13, R168). -/
theorem State.Admits.heldLaw_held {s : State} {x : Submission} (h : s.Admits x)
    (empty : s.link.slot = .empty) (now : x.trigger = .now) (port : x.port ≠ none)
    (hold : x.holdReply = true) (lseq : Byte) (law : s.HeldLaw) :
    ((s.accept x).setLink { (s.accept x).link with slot := .held x.tag lseq 0 }).HeldLaw := by
  obtain ⟨p, hp⟩ := Option.ne_none_iff_exists'.1 port
  rw [h.accept_now now hp]
  have job (i : Nat) : ((((s.placeJob x).setJob s.lowestFreeSlot
      ((s.admittedJob x).triggered s.time false)).joinTail p s.lowestFreeSlot)).job? i =
      if i = s.lowestFreeSlot then some ((s.admittedJob x).triggered s.time false) else s.job? i := by
    refine State.job_of_set ?_ (State.lowestFreeSlot_lt h.slot) i
    simp [State.joinTail, State.placeJob_slots]
  refine ⟨fun i j hj => ?_, fun tag lseq' n hs => ?_⟩
  · rw [State.job_setLink, job] at hj
    split at hj
    · rw [← Option.some.inj hj]
      exact ⟨⟨fun _ => ⟨lseq, 0, rfl⟩, fun _ => hold⟩, fun _ => ⟨now, port, .inl rfl⟩⟩
    · have notHeld := law.notHeld empty hj
      refine ⟨⟨fun c => ?_, fun ⟨l, n, hs⟩ => ?_⟩, fun c => ?_⟩
      · rw [notHeld] at c; cases c
      · simp only [State.setLink_link] at hs
        injection hs with e
        exact absurd e.symm (h.tag i j hj)
      · rw [notHeld] at c; cases c
  · simp only [State.setLink_link] at hs
    injection hs with e
    exact ⟨s.lowestFreeSlot, _, by rw [State.job_setLink, job, if_pos rfl], e⟩

theorem State.Admits.effect {s : State} {x : Submission} (h : s.Admits x) (tag : x.tag ≠ 0)
    (empty : s.link.slot = .empty) (notHeld : x.holdReply = false) : s.Effect (s.accept x) := by
  obtain ⟨table, queue, notice, dispatch⟩ := h.accept_laws tag
  have m : Moves True (s.placeJob x) (s.accept x) := State.admits_effectOf_trigger h
  have f : s.Framed True (s.accept x) := h.framed
  exact ⟨⟨⟨table, queue, notice, dispatch, fun tableLaw law =>
      m.lawsKept.held (h.tableLaw tag tableLaw) (h.heldLaw empty notHeld law)⟩,
    f.pool, f.pin, fun law p => f.drive p (law p), fun law p => f.bits trivial p (law p),
    fun law => (State.captureLaw_iff _).2 (f.capture ((State.captureLaw_iff s).1 law)), f.pending⟩,
    f.link.idle (by simp [empty]), f.time, f.timeSet, f.ahead⟩

theorem submitBody_steady {s : State} {r : Request} (h : s.requestOf .submit = some r)
    (empty : s.link.slot = .empty) : s.Steady (submitBody r s.emptyHand) := by
  unfold submitBody
  split
  · exact State.answer_steady h _
  · rename_i x hx
    split
    · exact State.answer_steady h _
    · rename_i admitted
      have admits := State.admissionRefusal_eq_none admitted
      obtain ⟨inHand, -, can⟩ := State.requestOf_eq_some h
      obtain ⟨port, trigger, steps, w, ok, rfl⟩ := parseSubmit_ok hx
      dsimp only
      split
      · rename_i hold
        obtain ⟨now, hasPort⟩ := ok.hold hold
        obtain ⟨table, queue, notice, dispatch⟩ := admits.accept_laws ok.tag
        have f : s.emptyHand.Framed True (s.emptyHand.accept _) := admits.framed
        have link : (s.emptyHand.accept _).link = s.emptyHand.link := f.link.idle (by
          intro tag lseq n hs
          rw [show s.emptyHand.link.slot = .empty from empty] at hs
          cases hs)
        refine ⟨⟨s.emptyHand_blocksKept.trans ⟨⟨table, queue, notice, dispatch, fun _ law =>
          admits.heldLaw_held empty now hasPort hold r.lseq law⟩, f.pool, f.pin, fun law p =>
          f.drive p (law p), fun law p => f.bits trivial p (law p), fun law =>
          (State.captureLaw_iff _).2 (f.capture ((State.captureLaw_iff _).1 law)), f.pending⟩,
          fun law => ?_, fun a => f.ahead.trans a⟩, f.time, f.timeSet⟩
        obtain ⟨len, low, high, -, reset⟩ := law
        rw [State.linkLaw_iff, State.setLink_link, link]
        exact ⟨len, low, high, nofun, fun c => ⟨rfl, (reset c).2⟩⟩
      · rename_i notHeld
        exact State.Effect.steady inHand can (admits.effect ok.tag empty (by simpa using notHeld)) _

theorem execSubmit_steady (s : State) : ∃ t, execSubmit s = .next t ∧ s.Steady t :=
  ⟨_, rfl, State.Steady.afterEvent (State.serve_rel (State.Steady.refl _)
    (fun _ p h => State.answer_steady h p) fun _ h free _ => submitBody_steady h
      (HeldSlot.empty_of (free.resolve_right (by simp [openNever]))))⟩

end Sys2Proof.Machine
end


section
/-! SUPPORT. A tick increment and SET_TIME, and what every command and every step keeps (R51, R53, R55). -/

namespace Sys2Proof.Machine

/-! ### The acts of an increment -/

theorem State.setReports_steady (s : State) (q : ReportQueue) (owed : q.owed = s.reports.owed)
    (queued : q.queued = s.reports.queued) (reserved : q.reserved = s.reports.reserved) :
    s.Steady (s.setReports q) := (Move.reports s q owed queued reserved).moves.steady

theorem State.forceLink_steady (s : State) : s.Steady s.forceLink := by
  unfold State.forceLink
  dsimp only
  have pulse : s.Steady (if s.reports.pulseDue then s.setReports s.reports.endPulse else s) := by
    split
    · exact s.setReports_steady _ rfl rfl rfl
    · exact State.Steady.refl s
  generalize (if s.reports.pulseDue then s.setReports s.reports.endPulse else s) = u at pulse ⊢
  have hold : s.Steady (if u.link.holdDue then u.elapseHold else u) := by
    split
    · rename_i due
      exact pulse.trans (Move.elapse _ (Link.holdDue_held due)).moves.steady
    · exact pulse
  generalize (if u.link.holdDue then u.elapseHold else u) = v at hold ⊢
  split
  · exact hold.trans (v.setLink_parsed v.link.dropFrame_parsed)
  · exact hold

theorem State.takeAct_steady (s : State) (act : TickAct) : s.Steady (s.takeAct act) := by
  cases act with
  | eventUnit => exact s.finishEventUnit_moves.steady
  | port p => exact (State.forcePort_moves p id).steady
  | dispatch p => exact (s.dispatchPort_moves p).steady
  | link => exact s.forceLink_steady

theorem State.finishTick_steady (s : State) : s.Steady s.finishTick := by
  have all : ∀ (l : List TickAct) (u : State), u.Steady (l.foldl State.takeAct u) := by
    intro l
    induction l with
    | nil => exact State.Steady.refl
    | cons act rest ih => exact fun u => (u.takeAct_steady act).trans (ih _)
  exact s.beforeEvent_steady.trans (all _ _)

/-! ### The counts and the samples (R53) -/

theorem Port.debounce_eq (x : Port) (prs : Bool) :
    ∃ present run, x.debounce prs = { x with present := present, presRun := run } := by
  unfold Port.debounce
  split
  · exact ⟨x.present, 0, rfl⟩
  · dsimp only
    split
    · exact ⟨_, _, rfl⟩
    · exact ⟨_, _, rfl⟩

theorem Run.countWait_eq (r : Run) : ∃ n, r.countWait = { r with pauseCount := n } := by
  unfold Run.countWait
  split
  · exact ⟨_, rfl⟩
  · exact ⟨_, rfl⟩
  · exact ⟨_, rfl⟩
  · exact ⟨r.pauseCount, rfl⟩

theorem PortState.runSlot_count (x : PortState) : x.count.runSlot = x.runSlot := by
  cases x with
  | running r =>
    obtain ⟨n, e⟩ := r.countWait_eq
    simp [PortState.count, PortState.runSlot, e]
  | _ => rfl

/-- A port that waits for SCL and drives neither line but in a recovery's first stage. -/
theorem PortState.waits_release {x : PortState} (waits : x.waitsForScl = true)
    (idle : ∀ r, x = .running r → r.phase = .runStart ∨ (r.phase = .start ∧ r.held = false) ∨
      r.phase = .pollGap ∨ r.phase = .pauseFree) : ∃ origin stage, x = .recovering origin stage := by
  cases x with
  | running r =>
    simp only [PortState.waitsForScl, Run.canStretch] at waits
    rcases idle r rfl with e | ⟨e, held⟩ | e | e
    · simp [e] at waits
    · simp [e, held] at waits
    · simp [e] at waits
    · simp [e] at waits
  | recovering origin stage => exact ⟨origin, stage, rfl⟩
  | _ => simp [PortState.waitsForScl] at waits

theorem Port.tickCount_kept {G : Prop} (x : Port) (m : PortSample) {sda : Pull}
    (rests : (∀ r, x.state ≠ .running r) → sda = x.drive.sda) : x.Kept G (x.tickCount m sda) := by
  obtain ⟨present, presRun, e⟩ := x.debounce_eq m.prs
  unfold Port.tickCount
  rw [e]
  dsimp only
  refine ⟨rfl, rfl, PortState.runSlot_count _, fun law => ?_, fun _ law => ?_⟩
  · intro idle release
    dsimp only at idle release ⊢
    have idle' : ∀ r, x.state = .running r → r.phase = .runStart ∨ (r.phase = .start ∧ r.held = false) ∨
        r.phase = .pollGap ∨ r.phase = .pauseFree := fun r hr => by
      obtain ⟨n, hn⟩ := r.countWait_eq
      have := idle r.countWait (by rw [hr]; rfl)
      rw [hn] at this
      exact this
    have drive := law idle' fun o stage hs => release o stage (by rw [hs]; rfl)
    cases waits : x.state.waitsForScl with
    | false => simpa using drive
    | true =>
      obtain ⟨origin, stage, hs⟩ := PortState.waits_release waits idle'
      rw [rests (by rw [hs]; exact nofun), drive]
      exact ite_self _
  · intro r hr
    dsimp only at hr ⊢
    cases hs : x.state with
    | running r0 =>
      rw [hs] at hr
      obtain ⟨n, hn⟩ := r0.countWait_eq
      have : r = r0.countWait := by injection hr with h; exact h.symm
      rw [this, hn]
      exact law r0 hs
    | _ => rw [hs] at hr; cases hr

theorem State.waitPull_rests (s : State) (p : PortId) (h : ∀ r, (s.port p).state ≠ .running r) :
    s.waitPull p = (s.port p).drive.sda := by
  have none : s.run? p = none := Option.eq_none_iff_forall_not_mem.2 fun r hr => h r (State.run?_eq_some.1 hr)
  simp only [State.waitPull, none]

theorem Port.tickCount_settings (x : Port) (m : PortSample) (sda : Pull) :
    (x.tickCount m sda).settings = x.settings := by
  obtain ⟨present, presRun, e⟩ := x.debounce_eq m.prs
  unfold Port.tickCount
  rw [e]

theorem Link.tickCount_lawful {l : Link} (law : l.Lawful) : l.tickCount.Lawful := by
  obtain ⟨room, low, high, full, reset⟩ := law
  refine ⟨room, low, high, fun w hw => full w ?_, reset⟩
  simp only [Link.tickCount, HeldSlot.count] at hw
  split at hw
  · cases hw
  · exact hw

theorem Link.tickCount_holdsAs (l : Link) : l.HoldsAs l.tickCount := by
  intro tag lseq
  cases hs : l.slot <;> simp [Link.tickCount, HeldSlot.count, hs]

theorem State.sampleLine_moves {G : Prop} (s : State) (now : Time) (n : Nat) :
    Moves G s (s.sampleLine now n) := by
  unfold State.sampleLine
  split
  · dsimp only
    split
    · exact (s.setSampler_moves n _).trans (Move.tick _ _ (by rfl)).moves
    · exact s.setSampler_moves n _
  · exact Moves.refl s

theorem sampleLines_moves {G : Prop} (now : Time) : ∀ (l : List Nat) (s : State),
    Moves G s (sampleLines now l s)
  | [], s => Moves.refl s
  | n :: rest, s => (s.sampleLine_moves now n).trans (sampleLines_moves now rest _)

/-- The counts of the ports, the reports and the link, with the pins as the increment samples them. -/
def State.counted (s : State) (m : Samples) : State :=
  ((((({ s with pins := Pins.ofSamples m } : State).setPort .a (s.portA.tickCount m.a (s.waitPull .a))).setPort
    .b (s.portB.tickCount m.b (s.waitPull .b))).setReports
      { s.reports with pulse := s.reports.pulse.map (fun n => n + 1) }).setLink s.link.tickCount)

theorem State.countAndSample_eq (s : State) (m : Samples) : s.countAndSample m =
    sampleLines (s.time + 1) (List.range Config.eventLines) ((s.counted m).setTick TickWork.none) := rfl

theorem State.tickCount_steady (u : State) (p : PortId) (m : PortSample) {sda : Pull}
    (rests : (∀ r, (u.port p).state ≠ .running r) → sda = (u.port p).drive.sda) :
    u.Steady (u.setPort p ((u.port p).tickCount m sda)) :=
  (u.setPort_moves (Port.tickCount_kept _ m rests) (Port.tickCount_settings _ m sda)).steady

theorem State.counted_steady (s : State) (m : Samples) : s.Steady (s.counted m) := by
  let u : State := { s with pins := Pins.ofSamples m }
  have pins : s.Steady u := (Move.pins s _).moves.steady
  have a : u.Steady (u.setPort .a (s.portA.tickCount m.a (s.waitPull .a))) :=
    u.tickCount_steady .a m.a (s.waitPull_rests .a)
  have b := (u.setPort .a (s.portA.tickCount m.a (s.waitPull .a))).tickCount_steady .b m.b
    (sda := s.waitPull .b) (s.waitPull_rests .b)
  exact (((pins.trans a).trans b).trans (State.setReports_steady _ _ (by rfl) (by rfl) (by rfl))).trans
    (State.setLink_steady _ s.link.tickCount_holdsAs Link.tickCount_lawful)

/-- The time and the work left of an increment are in no law. -/
theorem State.clock_blocksKept (s : State) (time : Time) (timeSet : Bool) (w : TickWork) :
    s.BlocksKept { s with time := time, timeSet := timeSet, tick := w } :=
  State.blocksKept_of_fields rfl rfl rfl rfl (fun p => by cases p <;> rfl) rfl (Link.HoldsAs.refl _)

theorem State.countAndSample_keeps (s : State) (m : Samples) : s.Keeps (s.countAndSample m) := by
  rw [State.countAndSample_eq]
  have counted := s.counted_steady m
  have sampled : ((s.counted m).setTick TickWork.none).Steady _ :=
    (sampleLines_moves (s.time + 1) (List.range Config.eventLines) _).steady
  exact ⟨(counted.toBlocksKept.trans (State.clock_blocksKept _ _ _ TickWork.none)).trans
    sampled.toBlocksKept, fun law => sampled.link (counted.link law), fun _ => sampled.ahead rfl⟩

theorem State.takeEarly_keeps (s : State) (act : TickAct) : s.Keeps (s.takeEarly act) := by
  have other : s.Keeps (
      let s1 := ({ s with time := s.time + 1, tick := { s.tick with ahead := true } } : State).takeAct act
      { s1 with time := s.time, tick := { s1.tick with ahead := false } }) := by
    have acted := State.takeAct_steady { s with time := s.time + 1, tick := { s.tick with ahead := true } } act
    exact ⟨((s.clock_blocksKept _ s.timeSet _).trans acted.toBlocksKept).trans
      (State.clock_blocksKept _ _ _ _), acted.link, fun _ => rfl⟩
  cases act with
  | dispatch p => exact (s.dispatchPort_moves p).steady.toKeeps
  | eventUnit => exact other
  | port p => exact other
  | link => exact other

theorem State.Keeps.refl (s : State) : s.Keeps s := (State.Steady.refl s).toKeeps

theorem foldl_takeEarly_keeps : ∀ (l : List TickAct) (s : State), s.Keeps (l.foldl State.takeEarly s)
  | [], s => State.Keeps.refl s
  | act :: rest, s => (s.takeEarly_keeps act).trans (foldl_takeEarly_keeps rest _)

theorem State.raiseTime_keeps (s : State) : s.Keeps s.raiseTime :=
  ⟨s.clock_blocksKept (s.time + 1) s.timeSet _, id, id⟩

theorem execTickIncrement_keeps (i : Increment) (s : State) :
    ∃ t, execTickIncrement i s = .next t ∧ s.Keeps t :=
  ⟨_, rfl, ((s.finishTick_steady.toKeeps.trans (State.countAndSample_keeps _ i.samples)).trans
    (foldl_takeEarly_keeps i.early _)).trans (State.raiseTime_keeps _)⟩

/-! ### SET_TIME -/

theorem setTimeEffect_keeps {s : State} {r : Request} {k : Kind} (h : s.requestOf k = some r) :
    s.Keeps (replying setTimeEffect r s.emptyHand) := by
  obtain ⟨inHand, -, can⟩ := State.requestOf_eq_some h
  unfold replying setTimeEffect
  split
  · exact (State.answer_steady h _).toKeeps
  · rename_i t _
    exact State.answered_keeps (v := { s.emptyHand with time := t, timeSet := true }) inHand can
      (State.clock_blocksKept s.emptyHand t true s.emptyHand.tick) rfl rfl _

theorem execSetTime_keeps (s : State) : ∃ t, execSetTime s = .next t ∧ s.Keeps t :=
  ⟨_, rfl, s.finishTick_steady.toKeeps.trans (State.serve_rel (State.Keeps.refl _)
    (fun _ p h => (State.answer_steady h p).toKeeps) fun _ h _ _ => setTimeEffect_keeps h)⟩

theorem execPinReset_keeps (rate : BitVec 2) (s : State) :
    ∃ t, execPinReset rate s = .next t ∧ s.Keeps t :=
  ⟨_, rfl, (State.fresh_of_reset s.pending 0 false s.pins rfl (Link.reset_lawful rate)).keeps rfl⟩

/-! ### Every command -/

/-- Every command but TICK_INCREMENT, SET_TIME and PIN_RESET. -/
theorem exec_steady (c : Instr) (s : State) (tick : ∀ i, c ≠ .tickIncrement i) (set : c ≠ .setTime)
    (reset : ∀ r, c ≠ .pinReset r) : ∃ t, exec c s = .next t ∧ s.Steady t := by
  cases c with
  | pinReset rate => exact absurd rfl (reset rate)
  | tickIncrement i => exact absurd rfl (tick i)
  | setTime => exact absurd rfl set
  | byteReceived data stop => exact execByteReceived_steady data stop s
  | gapTimeout => exact execGapTimeout_steady s
  | unknownKind => exact execUnknownKind_steady s
  | ping => exact execPing_steady s
  | getSummary => exact execGetSummary_steady s
  | setLink => exact execSetLink_steady s
  | reset => exact execReset_steady s
  | resetTakesEffect => exact execResetTakesEffect_steady s
  | getTime => exact execGetTime_steady s
  | configLine => exact execConfigLine_steady s
  | getCapture => exact execGetCapture_steady s
  | clearCapture => exact execClearCapture_steady s
  | configPort lines => exact execConfigPort_steady lines s
  | getPort => exact execGetPort_steady s
  | submit => exact execSubmit_steady s
  | cancel startUnderWay => exact execCancel_steady startUnderWay s
  | jobStatus => exact execJobStatus_steady s
  | fetch => exact execFetch_steady s
  | release => exact execRelease_steady s
  | readReports => exact execReadReports_steady s
  | replySent => exact execReplySent_steady s
  | holdLimit => exact execHoldLimit_steady s
  | deadlineExpiry tag => exact execDeadlineExpiry_steady tag s
  | atTrigger tag => exact execAtTrigger_steady tag s
  | everyMatch tag => exact execEveryMatch_steady tag s
  | edgeDetected line => exact execEdgeDetected_steady line s
  | eventTrigger tag => exact execEventTrigger_steady tag s
  | presenceLoss p bits => exact execPresenceLoss_steady p bits s
  | presenceGain p => exact execPresenceGain_steady p s
  | settleEnd p => exact execSettleEnd_steady p s
  | recoveryEnd p sda lines => exact execRecoveryEnd_steady p sda lines s
  | stuckRecheck p => exact execStuckRecheck_steady p s
  | busStartSeen p => exact execBusStartSeen_steady p s
  | busStopSeen p => exact execBusStopSeen_steady p s
  | trackerTimeout p => exact execTrackerTimeout_steady p s
  | dispatch p => exact execDispatch_steady p s
  | runStart p lines => exact execRunStart_steady p lines s
  | start x => exact execStart_steady x s
  | address p bits => exact execAddress_steady p bits s
  | poll p bits => exact execPoll_steady p bits s
  | pollGapEnd p => exact execPollGapEnd_steady p s
  | write p bits => exact execWrite_steady p bits s
  | read p bits => exact execRead_steady p bits s
  | stop p => exact execStop_steady p s
  | pauseHoldEnd p => exact execPauseHoldEnd_steady p s
  | pauseFreeEnd p => exact execPauseFreeEnd_steady p s
  | stretchTimeout p bits => exact execStretchTimeout_steady p bits s
  | arbitrationLoss p bits => exact execArbitrationLoss_steady p bits s
  | attnPulseEnd => exact execAttnPulseEnd_steady s

theorem exec_keeps (c : Instr) (s : State) : ∃ t, exec c s = .next t ∧ s.Keeps t := by
  by_cases tick : ∃ i, c = .tickIncrement i
  · obtain ⟨i, rfl⟩ := tick
    exact execTickIncrement_keeps i s
  by_cases set : c = .setTime
  · rw [set]
    exact execSetTime_keeps s
  by_cases reset : ∃ r, c = .pinReset r
  · obtain ⟨rate, rfl⟩ := reset
    exact execPinReset_keeps rate s
  obtain ⟨t, e, h⟩ := exec_steady c s (fun i e => tick ⟨i, e⟩) set (fun r e => reset ⟨r, e⟩)
  exact ⟨t, e, h.toKeeps⟩

/-- From `s` to `t` every law is kept; the queue of commands may move. -/
theorem step_keeps {s t : State} (h : step s = .next t) :
    ∃ u : State, u = { s with pending := u.pending } ∧ u.Keeps t := by
  unfold step at h
  split at h
  · cases h; exact ⟨s, rfl, State.Keeps.refl s⟩
  · rename_i c rest _
    obtain ⟨t', e, k⟩ := exec_keeps c { s with pending := rest }
    rw [e] at h
    cases h
    exact ⟨_, rfl, k⟩

/-! ### The pool's blocks (R41) -/

theorem State.heldBlocks_nodup {s : State} (law : s.TableLaw) : s.heldBlocks.Nodup := by
  obtain ⟨-, fits, distinct⟩ := law
  have job {i : Nat} (hi : i < s.slots.length) {j : Job} (e : s.slots[i] = some j) : s.job? i = some j := by
    simp [State.job?, List.getD_eq_getElem?_getD, hi, e]
  refine List.nodup_flatMap.2 ⟨fun o ho => ?_, List.pairwise_iff_getElem.2 fun i k hi hk lt => ?_⟩
  · obtain ⟨i, hi, rfl⟩ := List.mem_iff_getElem.1 ho
    cases e : s.slots[i] with
    | none => exact List.nodup_nil
    | some j => exact (fits i j (job hi e)).2.2.1.imp Nat.ne_of_lt
  · show List.Disjoint _ _
    intro b hb hb'
    cases e : s.slots[i] with
    | none => simp [e] at hb
    | some j =>
      cases e' : s.slots[k] with
      | none => simp [e'] at hb'
      | some j' =>
        simp only [e] at hb
        simp only [e'] at hb'
        exact (distinct i k j j' (job hi e) (job hk e') (Nat.ne_of_lt lt)).2 b hb hb'

theorem State.heldBlocks_lt {s : State} (law : s.TableLaw) {b : Nat} (h : b ∈ s.heldBlocks) : b < 64 := by
  obtain ⟨o, ho, hb⟩ := List.mem_flatMap.1 h
  obtain ⟨i, hi, rfl⟩ := List.mem_iff_getElem.1 ho
  cases e : s.slots[i] with
  | none => simp [e] at hb
  | some j =>
    simp only [e] at hb
    exact (law.2.1 i j (by simp [State.job?, List.getD_eq_getElem?_getD, hi, e])).2.2.2 b hb

/-- Held and free blocks together are the pool's. -/
theorem State.blocks_complete {s : State} (law : s.TableLaw) :
    s.heldBlocks.length + s.freeBlocks.length = 64 := by
  have held : s.heldBlocks.Perm ((List.range 64).filter fun b => s.heldBlocks.contains b) := by
    refine (List.perm_ext_iff_of_nodup (State.heldBlocks_nodup law)
      (List.nodup_range.filter _)).2 fun b => ?_
    simp only [List.mem_filter, List.mem_range, List.contains_iff_mem]
    exact ⟨fun h => ⟨State.heldBlocks_lt law h, h⟩, fun h => h.2⟩
  have split := List.length_eq_length_filter_add (l := List.range 64) fun b => s.heldBlocks.contains b
  rw [List.length_range, ← held.length_eq] at split
  exact split.symm

end Sys2Proof.Machine

open Sys2Proof Sys2Proof.Machine

/-- Settles O55, by the moves that every command is made of and by the link's own commands. -/
theorem everyStepKeepsPoolLinesAndLink : Obligations.EveryStepKeepsPoolLinesAndLink := by
  unfold Obligations.EveryStepKeepsPoolLinesAndLink
  intro s t h
  obtain ⟨u, e, k⟩ := step_keeps h
  rw [e] at k
  exact ⟨k.pool, k.pin, k.drive, k.bits, k.capture, k.link, k.ahead⟩

/-- Settles O56, by the moves that every command is made of. -/
theorem everyStepKeepsTheReportQueue : Obligations.EveryStepKeepsTheReportQueue := by
  unfold Obligations.EveryStepKeepsTheReportQueue
  intro s t law h
  obtain ⟨u, e, k⟩ := step_keeps h
  rw [e] at k
  exact k.queue law

/-- Settles O57, by the moves that every command is made of. -/
theorem everyStepKeepsTheNotices : Obligations.EveryStepKeepsTheNotices := by
  unfold Obligations.EveryStepKeepsTheNotices
  intro s t law h
  obtain ⟨u, e, k⟩ := step_keeps h
  rw [e] at k
  exact k.notice law

/-- Settles O58, by the moves that every command is made of and by counting the blocks. -/
theorem everyStepKeepsTheJobTable : Obligations.EveryStepKeepsTheJobTable := by
  unfold Obligations.EveryStepKeepsTheJobTable
  refine ⟨fun s t law h => ?_, fun s law => State.blocks_complete law⟩
  obtain ⟨u, e, k⟩ := step_keeps h
  rw [e] at k
  exact k.table law

/-- Settles O59, by the moves that every command is made of. -/
theorem everyStepKeepsTheDispatcher : Obligations.EveryStepKeepsTheDispatcher := by
  unfold Obligations.EveryStepKeepsTheDispatcher
  intro s t law h
  obtain ⟨u, e, k⟩ := step_keeps h
  rw [e] at k
  exact k.dispatch law

/-- Settles O60, by the moves that every command is made of. -/
theorem everyStepKeepsTheHeldReply : Obligations.EveryStepKeepsTheHeldReply := by
  unfold Obligations.EveryStepKeepsTheHeldReply
  intro s t table law h
  obtain ⟨u, e, k⟩ := step_keeps h
  rw [e] at k
  exact k.held table law

/-- Settles O4: no move but those three commands' own moves the time. -/
theorem onlyTheTimeBaseMovesTheTime : Obligations.OnlyTheTimeBaseMovesTheTime := by
  unfold Obligations.OnlyTheTimeBaseMovesTheTime
  intro c s
  obtain ⟨t, e, k⟩ := exec_keeps c s
  refine ⟨t, e, k.pending, fun tick set reset => ?_⟩
  obtain ⟨t', e', steady⟩ := exec_steady c s tick set reset
  rw [e] at e'
  cases e'
  exact ⟨steady.time, steady.timeSet⟩

/-- Settles O54. -/
theorem resetSatisfiesTheLaws : Obligations.ResetSatisfiesTheLaws := by
  unfold Obligations.ResetSatisfiesTheLaws
  have h := State.reset_fresh
  exact ⟨h.poolLaw, h.pinLaw, h.driveLaw, h.bitLaw, h.captureLaw, h.link, h.queueLaw, h.noticeLaw,
    h.tableLaw, h.dispatchLaw, h.heldLaw⟩

/-- Settles O1. -/
theorem stepRunsTheFrontCommand : Obligations.StepRunsTheFrontCommand := by
  unfold Obligations.StepRunsTheFrontCommand
  refine ⟨fun c rest s => rfl, fun s idle => ?_⟩
  simp only [step, idle]

end


section
/-! SUPPORT. The host link's own commands: resets, the parser, the counts at their limit, SET_LINK and
the replies that leave (R27, R164, R167 to R174). -/

namespace Sys2Proof.Machine

/-! ### Resets (R27, R173, R174) -/

/-- What either reset leaves is what the spec gives, whatever the link's rate and record are. -/
theorem State.atReset_of (pending : List Instr) (time : Time) (timeSet : Bool) (pins : Pins)
    (rate : BitVec 2) (sent : List Bool) :
    ({ State.reset with
        pending := pending, time := time, timeSet := timeSet, pins := pins
        link := { Link.reset rate with sent := sent } } : State).AtReset := by
  have fresh := State.fresh_of_reset pending time timeSet pins
    (link := { Link.reset rate with sent := sent }) rfl (Link.reset_lawful rate)
  refine ⟨rfl, rfl, rfl, fun n _ => ?_, fun p => ?_, rfl, rfl, rfl, rfl, rfl, rfl, rfl, rfl, rfl⟩
  · rw [fresh.line n]
    exact ⟨rfl, rfl, rfl, rfl, rfl, Bool.or_true _⟩
  · rw [fresh.ports p]
    exact ⟨rfl, rfl, rfl, rfl, rfl, rfl, rfl, rfl⟩

theorem Link.resetReply_of {l : Link} {r : Reply} (pending : l.resetPending = true) (tx : l.tx = [r]) :
    l.resetReply = some r := by
  simp [Link.resetReply, pending, tx]

/-- RESET_TAKES_EFFECT where the OK reply of the RESET is the one left (R173). -/
theorem exec_resetTakesEffect_of {s : State} {r : Reply} (quiet : s.Quiet)
    (pending : s.link.resetPending = true) (tx : s.link.tx = [r]) :
    exec .resetTakesEffect s = .next (s.resetBlocks r) := by
  show execResetTakesEffect s = _
  simp only [execResetTakesEffect, quiet.beforeEvent, Link.resetReply_of pending tx]

/-! ### The parser (R164) -/

/-- A frame in progress whose gap has not reached 128 goes on. -/
theorem Link.closeGap_of {l : Link} (h : l.parser ≠ .hunt → l.gap < 128) : l.closeGap = l := by
  by_cases hunt : l.parser = .hunt
  · simp [Link.closeGap, Link.gapDue, hunt]
  · have := h hunt
    have due : decide (Config.gapTicks ≤ l.gap) = false := by
      simp only [decide_eq_false_iff_not, Nat.not_le]
      exact this
    simp [Link.closeGap, Link.gapDue, due]

/-- Eight data bits, least significant first, bring their byte to the parser. -/
theorem exec_byteReceived_of {s : State} (b : Byte) (stop : Bool) (quiet : s.Quiet)
    (gap : s.link.parser ≠ .hunt → s.link.gap < 128) :
    exec (.byteReceived [b.getLsbD 0, b.getLsbD 1, b.getLsbD 2, b.getLsbD 3, b.getLsbD 4, b.getLsbD 5,
      b.getLsbD 6, b.getLsbD 7] stop) s = .next (s.setLink (s.link.takeByte b !stop)) := by
  show execByteReceived _ stop s = _
  simp only [execByteReceived, quiet.beforeEvent, byteOfBits_of, Link.closeGap_of gap]
  rfl

theorem Link.takeByte_framed (l : Link) (b : Byte) : l.takeByte b (!true) = l.frameByte b := rfl

theorem Link.takeByte_misframed {l : Link} (b : Byte) (h : l.parser ≠ .hunt) :
    l.takeByte b (!false) = l.dropFrame := by
  simp [Link.takeByte, h]

theorem Link.takeByte_hunting {l : Link} (b : Byte) (h : l.parser = .hunt) :
    l.takeByte b (!false) = l := by
  simp [Link.takeByte, h]

/-- Two bytes spell their number, the first the more significant. -/
theorem natBE_pair (a b : Byte) : natBE [a, b] = a.toNat * 256 + b.toNat := by
  simp [natBE]

theorem Link.frameByte_hunt {l : Link} (b : Byte) (h : l.parser = .hunt) :
    l.frameByte b = if b = 0xA5 then { l with parser := .length none, gap := 0 } else l := by
  simp [Link.frameByte, h]

theorem Link.frameByte_length {l : Link} (b : Byte) (h : l.parser = .length none) :
    l.frameByte b = { l with parser := .length (some b), gap := 0 } := by
  simp [Link.frameByte, h]

theorem Link.frameByte_lengthLow {l : Link} {hi : Byte} (b : Byte)
    (h : l.parser = .length (some hi)) :
    l.frameByte b = { l with
      parser := if 2 ≤ hi.toNat * 256 + b.toNat ∧ hi.toNat * 256 + b.toNat ≤ 322
        then .body (hi.toNat * 256 + b.toNat) [] else .hunt
      gap := 0 } := by
  simp only [Link.frameByte, h, natBE_pair, Link.dropFrame]
  split <;> rfl

theorem Link.frameByte_body {l : Link} {len : Nat} {bytes : List Byte} (b : Byte)
    (h : l.parser = .body len bytes) :
    l.frameByte b = { l with
      parser := if bytes.length + 1 < len then .body len (bytes ++ [b])
        else .check len (bytes ++ [b]) none
      gap := 0 } := by
  simp only [Link.frameByte, h]
  split <;> rfl

theorem Link.frameByte_check {l : Link} {len : Nat} {bytes : List Byte} (b : Byte)
    (h : l.parser = .check len bytes none) :
    l.frameByte b = { l with parser := .check len bytes (some b), gap := 0 } := by
  simp [Link.frameByte, h]

/-- A complete frame becomes the request in hand where its CHK matches and the hand is free (R165). -/
theorem Link.frameByte_checkLow {l : Link} {len : Nat} {kind lseq hi : Byte} {payload : List Byte}
    (b : Byte) (h : l.parser = .check len (kind :: lseq :: payload) (some hi))
    (size : len = payload.length + 2) :
    l.frameByte b = { l with
      parser := .hunt
      gap := 0
      inHand :=
        if hi.toNat * 256 + b.toNat = (crc (bytesBE 2 len ++ kind :: lseq :: payload)).toNat ∧
            l.inHand = none ∧ l.resetPending = false
        then some { kind := kind, lseq := lseq, payload := payload } else l.inHand } := by
  have chk : chkOf (kind :: lseq :: payload) = crc (bytesBE 2 len ++ kind :: lseq :: payload) := by
    rw [size]
    rfl
  simp only [Link.frameByte, h, natBE_pair, chk, Link.complete, Link.dropFrame, beq_iff_eq]
  by_cases matches' : hi.toNat * 256 + b.toNat = (crc (bytesBE 2 len ++ kind :: lseq :: payload)).toNat
  · by_cases free : l.inHand = none ∧ l.resetPending = false
    · simp [matches', free]
    · have : (l.inHand.isNone && !l.resetPending) = false := by
        simpa [Option.isNone_iff_eq_none] using free
      have stands : ¬(hi.toNat * 256 + b.toNat = (crc (bytesBE 2 len ++ kind :: lseq :: payload)).toNat ∧
          l.inHand = none ∧ l.resetPending = false) := fun c => free c.2
      rw [if_neg stands, if_pos matches', this]
      rfl
  · simp [matches']

/-! ### Counts at their limit (R159, R164, R169) -/

theorem exec_gapTimeout_of {s : State} (quiet : s.Quiet) (progress : s.link.parser ≠ .hunt)
    (due : 128 ≤ s.link.gap) : exec .gapTimeout s = .next (s.setLink s.link.dropFrame) := by
  have gapDue : s.link.gapDue = true := by
    simp only [Link.gapDue, Bool.and_eq_true, bne_iff_ne, decide_eq_true_eq]
    exact ⟨progress, due⟩
  show execGapTimeout s = _
  simp only [execGapTimeout, quiet.beforeEvent, gapDue, if_true]

theorem exec_attnPulseEnd_of {s : State} {n : Nat} (quiet : s.Quiet) (pulse : s.reports.pulse = some n)
    (due : 64 ≤ n) : exec .attnPulseEnd s = .next (s.setReports s.reports.endPulse) := by
  have pulseDue : s.reports.pulseDue = true := by
    simp only [ReportQueue.pulseDue, pulse, Option.any_some, decide_eq_true_eq]
    exact due
  show execAttnPulseEnd s = _
  simp only [execAttnPulseEnd, quiet.beforeEvent, pulseDue, if_true]

theorem exec_holdLimit_of {s : State} {tag : Tag} {lseq : Byte} {n : Nat} (quiet : s.Quiet)
    (held : s.link.slot = .held tag lseq n) (due : s.link.holdLimit * 1024 ≤ n) :
    exec .holdLimit s = .next s.elapseHold := by
  have holdDue : s.link.holdDue = true := by
    simp only [Link.holdDue, held, decide_eq_true_eq]
    exact due
  show execHoldLimit s = _
  simp only [execHoldLimit, quiet.beforeEvent, holdDue, if_true]

/-- The elapse of the hold limit of a job's reply (R169). -/
theorem State.elapseHold_held {s : State} {tag : Tag} {lseq : Byte} {n slot : Nat} {j : Job}
    (held : s.link.slot = .held tag lseq n) (found : s.findSlot tag = some slot)
    (hj : s.job? slot = some j) :
    s.elapseHold = (s.releaseHeld (Status.pendingNotify.code :: j.admissionBytes
      j.run.triggerTime)).setJob slot { j with replyHeld := false } := by
  unfold State.elapseHold
  rw [held]
  simp only [HeldSlot.tag, found, hj]
  exact State.modifyJob_of _ (by rw [State.job_releaseHeld, hj])

/-! ### Replies that leave (R167, R168) -/

theorem Link.resetReply_none {l : Link} (h : l.resetPending = false ∨ ∃ r x rest, l.tx = r :: x :: rest) :
    l.resetReply = none := by
  rcases h with h | ⟨r, x, rest, h⟩
  · simp [Link.resetReply, h]
  · simp [Link.resetReply, h]

theorem exec_replySent_of {s : State} {r : Reply} {rest : List Reply} (quiet : s.Quiet)
    (tx : s.link.tx = r :: rest) (notReset : s.link.resetReply = none) :
    exec .replySent s = .next (s.sendHead r rest) := by
  show execReplySent s = _
  simp only [execReplySent, quiet.beforeEvent, notReset, tx]

theorem exec_replySent_reset {s : State} {r : Reply} (quiet : s.Quiet)
    (pending : s.link.resetPending = true) (tx : s.link.tx = [r]) :
    exec .replySent s = .next (s.resetBlocks r) := by
  show execReplySent s = _
  simp only [execReplySent, quiet.beforeEvent, Link.resetReply_of pending tx]

/-- Where no content waits, or a RESET is pending, the queue alone moves. -/
theorem State.sendHead_of {s : State} {r : Reply} {rest : List Reply}
    (h : s.link.resetPending = true ∨ ∀ w, s.link.slot ≠ .waitingRoom w) :
    s.sendHead r rest = s.setLink { s.link with tx := rest, sent := r.levels } := by
  unfold State.sendHead
  dsimp only
  split
  · rename_i w hw
    rcases h with h | h
    · rw [if_pos h]
    · exact absurd hw (h w)
  · rfl
  · rfl

theorem State.sendHead_waiting {s : State} {r : Reply} {rest : List Reply} {w : Reply}
    (pending : s.link.resetPending = false) (slot : s.link.slot = .waitingRoom w) :
    s.sendHead r rest = s.setLink { s.link with
      tx := rest ++ [w], slot := .empty, sent := r.levels } := by
  simp [State.sendHead, slot, pending]

/-! ### A code of few values -/

theorem Byte.ne_zero_of_one_lt {b : Byte} (h : 1 < b.toNat) : b ≠ 0 ∧ b ≠ 1 :=
  ⟨fun e => by rw [e] at h; exact absurd h (by decide), fun e => by rw [e] at h; exact absurd h (by decide)⟩

theorem Byte.eq_of_le_one {b : Byte} (h : b.toNat ≤ 1) : b = 0 ∨ b = 1 := by
  have : b.toNat = 0 ∨ b.toNat = 1 := by omega
  rcases this with e | e
  · exact .inl (BitVec.eq_of_toNat_eq e)
  · exact .inr (BitVec.eq_of_toNat_eq e)

theorem AttnMode.ofCode_eq (b : Byte) : AttnMode.ofCode b =
    if 1 < b.toNat then none else some (if b = 0 then .level else .pulse) := by
  by_cases h : 1 < b.toNat
  · obtain ⟨h0, h1⟩ := Byte.ne_zero_of_one_lt h
    rw [AttnMode.ofCode, if_neg h0, if_neg h1, if_pos h]
  · rcases Byte.eq_of_le_one (Nat.le_of_not_lt h) with e | e <;> subst e <;> rfl

/-- The defined enables are the three low bits. -/
theorem bitsWithin_enableFlags (b : Byte) : bitsWithin enableFlags b = decide (b.toNat ≤ 7) := by
  revert b
  decide

theorem enablesOf_eq (b : Byte) : enablesOf b =
    { job := b.getLsbD 0, event := b.getLsbD 1, port := b.getLsbD 2 } := by
  revert b
  decide

/-- The ATTN settings that a mode's code gives; a pulse runs on from PULSE to PULSE (R160). -/
theorem ReportQueue.setAttn_eq (q : ReportQueue) {b : Byte} (e : Enables) (h : b.toNat ≤ 1) :
    q.setAttn (if b = 0 then .level else .pulse) e = { q with
      attnMode := if b = 0 then .level else .pulse
      enables := e
      pulse := if q.attnMode = .pulse ∧ b = 1 then q.pulse else none } := by
  rcases Byte.eq_of_le_one h with rfl | rfl
  · simp [ReportQueue.setAttn]
  · simp [ReportQueue.setAttn]

/-! ### Requests whose effect comes before the reply -/

/-- A request carried out with no reply held answers what its effect says, on what its effect leaves. -/
theorem State.serve_replying {s : State} {k : Kind} {r : Request}
    {f : List Byte → State → State × List Byte} (h : s.MayCarryOut k r)
    (size : k.sizeOk r.payload.length = true) :
    s.serve k openNever (replying f) = ((f r.payload s.emptyHand).1).answer r (f r.payload s.emptyHand).2 :=
  State.serve_carriesOut h size

theorem exec_setLink_of {s : State} {r : Request} (h : s.MayCarryOut .setLink r)
    (size : r.payload.length = 3) : exec .setLink s = .next ((setLinkEffect r.payload s.emptyHand).1.answer r
      (setLinkEffect r.payload s.emptyHand).2) := by
  have quiet : s.Quiet := h.1.1
  show Host.Outcome.next (s.beforeEvent.serve .setLink openNever _) = _
  rw [quiet.beforeEvent, State.serve_replying h (by rw [size]; rfl)]

end Sys2Proof.Machine

open Sys2Proof Sys2Proof.Machine

/-- Settles O3: what either reset leaves is the state of `atReset_of`. -/
theorem resetsSetTheResetValues : Obligations.ResetsSetTheResetValues := by
  unfold Obligations.ResetsSetTheResetValues
  refine ⟨fun rate s => ⟨_, rfl, State.atReset_of s.pending 0 false s.pins rate [], rfl, rfl, rfl⟩,
    fun s r quiet pending tx => ⟨_, exec_resetTakesEffect_of quiet pending tx,
      State.atReset_of s.pending s.time s.timeSet s.pins s.link.rate r.levels, rfl, rfl, rfl⟩,
    State.atReset_of [] 0 false Pins.released 0 [], rfl, rfl⟩

/-- Settles O5, one equation for each of the parser's states. -/
theorem parserTakesEachByteByItsState : Obligations.ParserTakesEachByteByItsState := by
  unfold Obligations.ParserTakesEachByteByItsState
  intro s b quiet gap
  dsimp only
  simp only [exec_byteReceived_of b _ quiet gap, Link.takeByte_framed]
  refine ⟨fun h => ⟨?_, ?_⟩, fun h => ?_, fun h => ?_, fun hi h => ?_, fun len bytes h => ?_,
    fun len bytes h => ?_, fun len kind lseq payload hi h size => ?_⟩
  · rw [Link.takeByte_hunting b h]
    rfl
  · rw [Link.frameByte_hunt b h]
    split <;> rfl
  · rw [Link.takeByte_misframed b h]
    rfl
  · rw [Link.frameByte_length b h]
    rfl
  · rw [Link.frameByte_lengthLow b h]
    rfl
  · rw [Link.frameByte_body b h]
    rfl
  · rw [Link.frameByte_check b h]
    rfl
  · rw [Link.frameByte_checkLow b h size]
    rfl

/-- Settles O6. -/
theorem countsAtTheirLimitEndWhatTheyTime : Obligations.CountsAtTheirLimitEndWhatTheyTime := by
  unfold Obligations.CountsAtTheirLimitEndWhatTheyTime
  refine ⟨fun s quiet progress due => exec_gapTimeout_of quiet progress due,
    fun s n quiet pulse due => exec_attnPulseEnd_of quiet pulse due,
    fun s tag lseq n slot j quiet held due found hj => ?_⟩
  rw [exec_holdLimit_of quiet held due, State.elapseHold_held held found hj,
    State.releaseHeld_held _ held]
  split <;> rfl

/-- Settles O9, check by check. -/
theorem setLinkReplacesItsSettings : Obligations.SetLinkReplacesItsSettings := by
  unfold Obligations.SetLinkReplacesItsSettings
  intro s r limit mode enables h payload
  rw [exec_setLink_of h (by rw [payload]; rfl), payload]
  have limitAt : byteAt [limit, mode, enables] 0 = limit := rfl
  have modeAt : byteAt [limit, mode, enables] 1 = mode := rfl
  have enablesAt : byteAt [limit, mode, enables] 2 = enables := rfl
  simp only [setLinkEffect, limitAt, modeAt, enablesAt, AttnMode.ofCode_eq, bitsWithin_enableFlags,
    enablesOf_eq, beq_iff_eq]
  refine ⟨fun zero => ?_, fun notZero bad => ?_, fun notZero ok bad => ?_, fun notZero ok within => ?_⟩
  · rw [if_pos zero]
    rfl
  · rw [if_neg notZero, if_pos bad]
    rfl
  · rw [if_neg notZero, if_neg (Nat.not_lt.2 ok)]
    simp only [Nat.not_le.2 bad, decide_false, Bool.not_false, if_true]
    rfl
  · rw [if_neg notZero, if_neg (Nat.not_lt.2 ok)]
    simp only [within, decide_true, Bool.not_true, Bool.false_eq_true, if_false]
    rw [ReportQueue.setAttn_eq _ _ ok]
    rfl

/-- Settles O10. -/
theorem repliesLeaveFromTheHead : Obligations.RepliesLeaveFromTheHead := by
  unfold Obligations.RepliesLeaveFromTheHead
  refine ⟨fun s r h payload => ?_, fun s r rest quiet tx => ?_, fun l tx => ?_⟩
  · have quiet : s.Quiet := h.1
    show Host.Outcome.next (s.beforeEvent.serve .reset openAlways _) = _
    rw [quiet.beforeEvent, State.serve_body h (by rw [payload]; rfl) (fun _ => rfl)]
    rfl
  · dsimp only
    refine ⟨fun pending w hw => ?_, fun pending noRoom => ?_, fun pending more => ?_,
      fun pending last => ?_⟩
    · rw [exec_replySent_of quiet tx (Link.resetReply_none (.inl pending)),
        State.sendHead_waiting pending hw]
      rfl
    · rw [exec_replySent_of quiet tx (Link.resetReply_none (.inl pending)),
        State.sendHead_of (.inr noRoom)]
      rfl
    · obtain ⟨x, more', rfl⟩ := List.exists_cons_of_ne_nil more
      rw [exec_replySent_of quiet tx (Link.resetReply_none (.inr ⟨r, x, more', tx⟩)),
        State.sendHead_of (.inl pending)]
      rfl
    · subst last
      rw [exec_replySent_reset quiet pending tx, exec_resetTakesEffect_of quiet pending tx]
      exact ⟨rfl, _, rfl, rfl⟩
  · simp [Link.txdAtRest, tx]

end

section
/-! SUPPORT. Requests by kind: the state each acts on, the checks that come first (R166), the tables of
codes (section 10.5), and the line requests and time requests (R54, R55, R68, R82). -/

namespace Sys2Proof.Machine

/-! ### The state a request acts on, and what it is carried out against -/

/-- The state that a request of a kind is taken in (log 3). -/
def Kind.takenIn (k : Kind) (s : State) : State :=
  match k with
  | .setTime => s.finishTick
  | .configLine => s.beforeLineEvent
  | .getCapture => s.beforeLineEvent
  | _ => s.beforeEvent

/-- Whether a kind's request is carried out while a reply is held (R166). -/
def Kind.opens (k : Kind) (u : State) (r : Request) : Bool :=
  match k with
  | .ping => true
  | .getSummary => true
  | .jobStatus => true
  | .reset => true
  | .cancel => tagAt r.payload == u.link.slot.tag
  | _ => false

/-- A command that carries out a kind serves its request. -/
theorem exec_of_carriesOut {c : Instr} {k : Kind} (h : c.carriesOut k) : ∃ body, ∀ s,
    exec c s = .next ((k.takenIn s).serve k (k.opens (k.takenIn s)) body) := by
  cases k
  case configPort => obtain ⟨l, rfl⟩ := h; exact ⟨_, fun _ => rfl⟩
  case cancel => obtain ⟨b, rfl⟩ := h; exact ⟨_, fun _ => rfl⟩
  all_goals
    obtain rfl := h
    exact ⟨_, fun _ => rfl⟩

theorem Kind.opens_eq_false {k : Kind} {u : State} {r : Request} {tag : Tag} {lseq : Byte} {n : Nat}
    (held : u.link.slot = .held tag lseq n) (ping : k ≠ .ping) (summary : k ≠ .getSummary)
    (status : k ≠ .jobStatus) (reset : k ≠ .reset) (other : k = .cancel → tagAt r.payload ≠ tag) :
    k.opens u r = false := by
  cases k
  case cancel => simpa [Kind.opens, held, HeldSlot.tag] using other rfl
  case ping => exact absurd rfl ping
  case getSummary => exact absurd rfl summary
  case jobStatus => exact absurd rfl status
  case reset => exact absurd rfl reset
  all_goals rfl

theorem knownKind_eq_false {b : Byte} (h : b ∉ ([0x01, 0x02, 0x03, 0x0F, 0x10, 0x11, 0x20, 0x21, 0x22,
    0x30, 0x31, 0x40, 0x41, 0x42, 0x43, 0x44, 0x50] : List Byte)) : knownKind b = false := by
  have codes : Kind.all.map Kind.code = [0x01, 0x02, 0x03, 0x0F, 0x10, 0x11, 0x20, 0x21, 0x22,
    0x30, 0x31, 0x40, 0x41, 0x42, 0x43, 0x44, 0x50] := rfl
  rw [← codes] at h
  refine Bool.eq_false_iff.2 fun known => h ?_
  obtain ⟨k, mem, eq⟩ := List.any_eq_true.1 known
  exact List.mem_map.2 ⟨k, mem, beq_iff_eq.1 eq⟩

theorem Link.canTake_of {l : Link} (room : l.tx.length < 4) (slot : ∀ w, l.slot ≠ .waitingRoom w) :
    l.canTake = true := by
  cases h : l.slot with
  | waitingRoom w => exact absurd h (slot w)
  | empty => simp [Link.canTake, h, room]
  | held tag lseq n => simp [Link.canTake, h, room]

/-! ### The tables of codes -/

/-- The codes of a table are the numbers below `n`. -/
def CodesBelow {α : Type} (f : Byte → Option α) (n : Nat) : Prop :=
  ∀ b, (f b).isSome = decide (b.toNat < n)

theorem CodesBelow.eq_none {α : Type} {f : Byte → Option α} {n : Nat} (h : CodesBelow f n) {b : Byte}
    (hb : n ≤ b.toNat) : f b = none := by
  have := h b
  rw [decide_eq_false (by omega)] at this
  exact Option.isSome_eq_false_iff.1 this |> Option.isNone_iff_eq_none.1

theorem CodesBelow.exists_eq {α : Type} {f : Byte → Option α} {n : Nat} (h : CodesBelow f n) {b : Byte}
    (hb : b.toNat < n) : ∃ x, f b = some x := by
  have := h b
  rw [decide_eq_true hb] at this
  exact Option.isSome_iff_exists.1 this

theorem EdgeSetting.codes : CodesBelow EdgeSetting.ofCode 4 := by
  unfold CodesBelow
  decide

theorem CaptureMode.codes : CodesBelow CaptureMode.ofCode 2 := by
  unfold CodesBelow
  decide

theorem onOff_codes : CodesBelow onOffOfCode 2 := by
  unfold CodesBelow
  decide

theorem PortMode.codes : CodesBelow PortMode.ofCode 3 := by
  unfold CodesBelow
  decide

theorem Speed.codes : CodesBelow Speed.ofCode 3 := by
  unfold CodesBelow
  decide

theorem Slowing.codes : CodesBelow Slowing.ofCode 4 := by
  unfold CodesBelow
  decide

theorem PresenceSetting.codes : CodesBelow PresenceSetting.ofCode 2 := by
  unfold CodesBelow
  decide

@[simp] theorem EdgeSetting.ofCode_code (e : EdgeSetting) : EdgeSetting.ofCode e.code = some e := by
  cases e <;> rfl

@[simp] theorem CaptureMode.ofCode_code (m : CaptureMode) : CaptureMode.ofCode m.code = some m := by
  cases m <;> rfl

@[simp] theorem PortMode.ofCode_code (m : PortMode) : PortMode.ofCode m.code = some m := by
  cases m <;> rfl

@[simp] theorem Speed.ofCode_code (x : Speed) : Speed.ofCode x.code = some x := by cases x <;> rfl

@[simp] theorem Slowing.ofCode_code (x : Slowing) : Slowing.ofCode x.code = some x := by
  cases x <;> rfl

@[simp] theorem PresenceSetting.ofCode_code (x : PresenceSetting) :
    PresenceSetting.ofCode x.code = some x := by cases x <;> rfl

@[simp] theorem onOffOfCode_ite (b : Bool) : onOffOfCode (if b then 1 else 0) = some b := by
  cases b <;> rfl

theorem onOffOfCode_of_lt {b : Byte} (h : b.toNat < 2) : onOffOfCode b = some (b == 1) := by
  rcases Byte.eq_of_le_one (Nat.le_of_lt_succ h) with rfl | rfl <;> rfl

theorem boolCode_eq (b : Bool) : boolCode b = if b then 1 else 0 := rfl

/-! ### Carrying out a request of each kind -/

theorem exec_getTime_of {s : State} {r : Request} (h : s.MayCarryOut .getTime r)
    (size : r.payload = []) : exec .getTime s = .next (s.replied r s.timePayload) := by
  have quiet : s.Quiet := h.1.1
  show Host.Outcome.next (s.beforeEvent.serve .getTime openNever _) = _
  rw [quiet.beforeEvent, State.serve_replying h (by rw [size]; rfl)]
  rfl

/-- A request carried out whose effect `f` leaves `t`, but for the hand, and says `payload`. -/
theorem State.serve_answers {s t : State} {k : Kind} {r : Request} {payload : List Byte}
    {f : List Byte → State → State × List Byte} (h : s.MayCarryOut k r)
    (size : k.sizeOk r.payload.length = true)
    (effect : f r.payload s.emptyHand = (t.emptyHand, payload)) :
    s.serve k openNever (replying f) = t.replied r payload := by
  rw [State.serve_replying h size, effect]
  exact State.emptyHand_answer t r payload

theorem exec_setTime_of {s t : State} {r : Request} {payload : List Byte}
    (h : s.finishTick.MayCarryOut .setTime r) (size : r.payload.length = 7)
    (effect : setTimeEffect r.payload s.finishTick.emptyHand = (t.emptyHand, payload)) :
    exec .setTime s = .next (t.replied r payload) :=
  congrArg Host.Outcome.next (State.serve_answers h (by rw [size]; rfl) effect)

theorem exec_configLine_of {s t : State} {r : Request} {payload : List Byte} (quiet : s.Quiet)
    (h : s.finishEventUnit.MayCarryOut .configLine r) (size : r.payload.length = 5)
    (effect : configLineEffect r.payload s.finishEventUnit.emptyHand = (t.emptyHand, payload)) :
    exec .configLine s = .next (t.replied r payload) := by
  show Host.Outcome.next (s.beforeLineEvent.serve .configLine openNever _) = _
  rw [quiet.beforeLineEvent, State.serve_answers h (by rw [size]; rfl) effect]

theorem exec_getCapture_of {s : State} {r : Request} (quiet : s.Quiet)
    (h : s.finishEventUnit.MayCarryOut .getCapture r) (size : r.payload.length = 1) :
    exec .getCapture s = .next (s.finishEventUnit.replied r
      (s.finishEventUnit.capturePayload r.payload)) := by
  show Host.Outcome.next (s.beforeLineEvent.serve .getCapture openNever _) = _
  rw [quiet.beforeLineEvent, State.serve_replying h (by rw [size]; rfl)]
  rfl

theorem exec_configPort_of {s t : State} {r : Request} {l : Levels} {payload : List Byte}
    (h : s.MayCarryOut .configPort r) (size : r.payload.length = 10)
    (effect : configPortEffect l r.payload s.emptyHand = (t, payload)) :
    exec (.configPort l) s = .next (t.answer r payload) := by
  have quiet : s.Quiet := h.1.1
  show Host.Outcome.next (s.beforeEvent.serve .configPort openNever _) = _
  rw [quiet.beforeEvent, State.serve_replying h (by rw [size]; rfl), effect]

/-! ### SET_TIME (R55) -/

theorem setTimeEffect_refused {p e : List Byte} {u : State} (h : newTime p u.time = .error e) :
    setTimeEffect p u.emptyHand = (u.emptyHand, e) := by
  have h' : newTime p u.emptyHand.time = .error e := h
  simp only [setTimeEffect, h']

theorem setTimeEffect_accepted {p : List Byte} {u : State} {t : Time} (h : newTime p u.time = .ok t) :
    setTimeEffect p u.emptyHand = (({ u with time := t, timeSet := true } : State).emptyHand,
      0x00 :: (timeBytes u.time ++ timeBytes t)) := by
  have h' : newTime p u.emptyHand.time = .ok t := h
  simp only [setTimeEffect, h']
  rfl

section
variable {mode a b c d e f : Byte} {now : Time}

theorem newTime_badMode (h : 1 < mode.toNat) :
    newTime [mode, a, b, c, d, e, f] now = .error [0x11, 0, 0] := by
  obtain ⟨notZero, notOne⟩ := Byte.ne_zero_of_one_lt h
  have modeAt : byteAt [mode, a, b, c, d, e, f] 0 = mode := rfl
  simp only [newTime, modeAt, beq_iff_eq, if_neg notZero, if_neg notOne]
  rfl

theorem newTime_absolute : newTime [0, a, b, c, d, e, f] now =
    .ok (BitVec.ofNat 48 (natBE [a, b, c, d, e, f])) := rfl

theorem newTime_relative : newTime [1, a, b, c, d, e, f] now =
    if a ≠ 0 then .error [0x11, 0, 1] else if b ≠ 0 then .error [0x11, 0, 2]
    else .ok (now + (BitVec.ofNat 32 (natBE [c, d, e, f])).signExtend 48) := by
  have modeAt : byteAt [1, a, b, c, d, e, f] 0 = 1 := rfl
  have firstAt : byteAt [1, a, b, c, d, e, f] 1 = a := rfl
  have secondAt : byteAt [1, a, b, c, d, e, f] 2 = b := rfl
  simp only [newTime, modeAt, firstAt, secondAt, bne_iff_ne]
  rfl

end

/-! ### CONFIG_LINE (R68) -/

section
variable {n edge mode filter en : Byte}

theorem lineConfigOf_badLine (h : 8 ≤ n.toNat) :
    lineConfigOf [n, edge, mode, filter, en] = .error [0x11, 0, 0] := if_pos h

theorem lineConfigOf_eq (h : n.toNat < 8) : lineConfigOf [n, edge, mode, filter, en] =
    match EdgeSetting.ofCode edge, CaptureMode.ofCode mode with
    | none, _ => .error [0x11, 0, 1]
    | some _, none => .error [0x11, 0, 2]
    | some e, some m =>
      if 15 < filter.toNat then .error [0x11, 0, 3]
      else match onOffOfCode en with
        | none => .error [0x11, 0, 4]
        | some b => .ok (n.toNat, { edge := e, mode := m, filter := filter.toNat, noticeEn := b }) := by
  refine (if_neg (Nat.not_le.2 h)).trans ?_
  show (match EdgeSetting.ofCode edge with | none => _ | some e => _) = _
  cases EdgeSetting.ofCode edge with
  | none => rfl
  | some e =>
    show (match CaptureMode.ofCode mode with | none => _ | some m => _) = _
    cases CaptureMode.ofCode mode with
    | none => rfl
    | some m =>
      show (if 15 < filter.toNat then _ else match onOffOfCode en with | none => _ | some b => _) = _
      cases onOffOfCode en <;> rfl

end

theorem configLineEffect_refused {p e : List Byte} (s : State) (h : lineConfigOf p = .error e) :
    configLineEffect p s = (s, e) := by
  simp [configLineEffect, h]

/-- The two ends of a CONFIG_LINE whose fields are good: the pins in use, or the settings replaced. -/
theorem configLineEffect_accepted {p : List Byte} {n : Nat} {c : LineConfig} (s : State)
    (h : lineConfigOf p = .ok (n, c)) :
    (6 ≤ n ∧ c.edge ≠ .off ∧ s.portB.settings.mode ≠ .off → configLineEffect p s = (s, [0x27])) ∧
    (¬(6 ≤ n ∧ c.edge ≠ .off ∧ s.portB.settings.mode ≠ .off) →
      configLineEffect p s = (s.setLine n { s.line n with config := c }, [0x00])) := by
  have guard : (decide (6 ≤ n) && c.edge != .off && s.portB.settings.mode != .off) = true ↔
      6 ≤ n ∧ c.edge ≠ .off ∧ s.portB.settings.mode ≠ .off := by
    simp [and_assoc]
  refine ⟨fun used => ?_, fun free => ?_⟩
  · simp only [configLineEffect, h, if_pos (guard.2 used)]
    rfl
  · simp only [configLineEffect, h, if_neg (mt guard.1 free)]
    rfl

/-! ### GET_CAPTURE (R82) -/

theorem State.captureEntry_eq (s : State) (n : Nat) : s.captureEntry n =
    let l := s.line n
    [BitVec.ofNat 8 n, l.config.edge.code, l.config.mode.code, BitVec.ofNat 8 l.config.filter,
     if l.config.noticeEn then 1 else 0,
     if n < 6 ∨ s.portB.settings.mode = .off then 1 else 0,
     l.sampler.settled.code, if l.capture.held then 1 else 0, l.capture.polarity.code,
     BitVec.ofNat 8 l.capture.count] ++ timeBytes l.capture.time ++ [l.notice.code] := by
  have avail : boolCode (s.available n) = if n < 6 ∨ s.portB.settings.mode = .off then 1 else 0 := by
    simp [boolCode, State.available]
  simp only [State.captureEntry, avail]
  rfl

end Sys2Proof.Machine

open Sys2Proof Sys2Proof.Machine

/-- Settles O7: the checks of `serve`, which every request's command begins with. -/
theorem theLinkChecksEachRequestFirst : Obligations.TheLinkChecksEachRequestFirst := by
  unfold Obligations.TheLinkChecksEachRequestFirst
  refine ⟨fun s r quiet inHand room slot unknown => ?_, fun s r k c quiet out => ?_⟩
  · show execUnknownKind s = _
    simp only [execUnknownKind, quiet.beforeEvent, inHand, knownKind_eq_false unknown,
      Link.canTake_of room slot, Bool.not_false, Bool.and_true, if_true]
    rfl
  · intro u may
    have taken : k.takenIn s = u := by
      cases k
      case configLine => exact quiet.beforeLineEvent
      case getCapture => exact quiet.beforeLineEvent
      case setTime => rfl
      all_goals exact quiet.beforeEvent
    obtain ⟨body, serves⟩ := exec_of_carriesOut out
    rw [serves, taken]
    refine ⟨fun badSize => ?_, fun size tag lseq n held ping summary status reset other => ?_⟩
    · refine congrArg _ (State.serve_badLength may (Bool.eq_false_iff.2 fun ok => ?_))
      have := (Kind.sizeOk_iff _ _).1 ok
      split at this <;> rename_i isSubmit <;> simp only [isSubmit, if_true, if_false] at badSize
      · omega
      · exact badSize this
    · exact congrArg _ (State.serve_busy may ((Kind.sizeOk_iff _ _).2 size) (by rw [held]; rfl)
        (Kind.opens_eq_false held ping summary status reset other))

/-- Settles O11. -/
theorem timeRequestsReadAndSetTheTime : Obligations.TimeRequestsReadAndSetTheTime := by
  unfold Obligations.TimeRequestsReadAndSetTheTime
  refine ⟨fun s r h payload => exec_getTime_of h payload, fun s r mode a b c d e f => ?_⟩
  intro u h payload
  have time : u.time = s.time := s.finishTick_steady.time
  have size : r.payload.length = 7 := by rw [payload]; rfl
  have refused {e : List Byte} (bad : newTime r.payload u.time = .error e) :
      exec .setTime s = .next (u.replied r e) := exec_setTime_of h size (setTimeEffect_refused bad)
  have accepted {t : Time} (ok : newTime r.payload u.time = .ok t) :=
    exec_setTime_of h size (setTimeEffect_accepted ok)
  rw [payload] at refused accepted
  rw [← time]
  refine ⟨rfl, fun big => refused (newTime_badMode big), fun one ha => refused ?_,
    fun one ha hb => refused ?_, fun zero => ?_, fun one ha hb => accepted ?_⟩
  · rw [one, newTime_relative, if_pos ha]
  · rw [one, newTime_relative, if_neg (not_not.2 ha), if_pos hb]
  · subst zero
    exact accepted newTime_absolute
  · rw [one, newTime_relative, if_neg (not_not.2 ha), if_neg (not_not.2 hb)]

/-- Settles O18, check by check. -/
theorem configLineReplacesTheSettings : Obligations.ConfigLineReplacesTheSettings := by
  unfold Obligations.ConfigLineReplacesTheSettings
  intro s r n edge mode filter en quiet u h payload
  have size : r.payload.length = 5 := by rw [payload]; rfl
  have refused {e : List Byte} (bad : lineConfigOf r.payload = .error e) :
      exec .configLine s = .next (u.replied r e) :=
    exec_configLine_of quiet h size (configLineEffect_refused _ bad)
  rw [payload] at refused
  refine ⟨fun big => refused (lineConfigOf_badLine big), fun hn => ?_⟩
  have config := lineConfigOf_eq (edge := edge) (mode := mode) (filter := filter) (en := en) hn
  refine ⟨fun badEdge => refused ?_, fun he badMode => refused ?_, fun he hm badFilter => refused ?_,
    fun he hm hf badEn => refused ?_, fun e m he hm hf hen => ?_⟩
  · rw [config, EdgeSetting.codes.eq_none badEdge]
  · obtain ⟨e, he⟩ := EdgeSetting.codes.exists_eq he
    rw [config, he, CaptureMode.codes.eq_none badMode]
  · obtain ⟨e, he⟩ := EdgeSetting.codes.exists_eq he
    obtain ⟨m, hm⟩ := CaptureMode.codes.exists_eq hm
    rw [config, he, hm]
    exact if_pos badFilter
  · obtain ⟨e, he⟩ := EdgeSetting.codes.exists_eq he
    obtain ⟨m, hm⟩ := CaptureMode.codes.exists_eq hm
    rw [config, he, hm, onOff_codes.eq_none badEn]
    exact if_neg (by omega)
  · subst he hm
    rw [EdgeSetting.ofCode_code, CaptureMode.ofCode_code, onOffOfCode_of_lt hen] at config
    dsimp only at config
    rw [if_neg (by omega), ← payload] at config
    obtain ⟨used, free⟩ := configLineEffect_accepted u.emptyHand config
    split
    · next inUse => exact exec_configLine_of quiet h size (used inUse)
    · next notInUse => exact exec_configLine_of quiet h size (free notInUse)

/-- Settles O19. -/
theorem getCaptureReadsTheRecords : Obligations.GetCaptureReadsTheRecords := by
  unfold Obligations.GetCaptureReadsTheRecords
  intro s r mask quiet u h payload
  rw [exec_getCapture_of quiet h (by rw [payload]; rfl), payload]
  have maskAt : byteAt [mask] 0 = mask := rfl
  simp only [State.capturePayload, maskAt, beq_iff_eq]
  refine ⟨fun zero => ?_, fun notZero => ?_⟩
  · rw [if_pos zero]
    rfl
  · rw [if_neg notZero, funext (State.captureEntry_eq s.finishEventUnit)]
    rfl

end

section
/-! SUPPORT. What a source that asks for a notice leaves, what the drain leaves, and the one event of a
READ_REPORTS (R152 to R156). -/

namespace Sys2Proof.Machine

/-! ### Asking for a notice -/

/-- A port that asks moves its notice state and the queue as `NoticeAsked` says, and nothing else. -/
theorem State.askNotice_port (s : State) (p : PortId) : ∃ q n,
    NoticeAsked (.port p) (.port p (s.port p).state.reported s.time) (s.port p).settings.noticeEn
      s.reports (s.port p).notice q n ∧
    s.askNotice (.port p) = (s.setReports q).setPort p { s.port p with notice := n } := by
  by_cases ask : (s.port p).settings.noticeEn = true ∧ (s.port p).notice = .none
  · have asked : s.askNotice (.port p) = s.requestNotice (.port p) :=
      if_pos (by simpa [State.noticeEnabled, State.noticeState] using ask)
    by_cases room : 1 ≤ s.reports.room
    · refine ⟨s.reports.push (.port p (s.port p).state.reported s.time), .queued, ?_, ?_⟩
      · rw [NoticeAsked, if_pos ask, if_pos room]
        exact ⟨rfl, rfl⟩
      · rw [asked, State.requestNotice, if_pos room]
        cases p <;> rfl
    · refine ⟨{ s.reports with owed := s.reports.owed ++ [.port p] }, .owed, ?_, ?_⟩
      · rw [NoticeAsked, if_pos ask, if_neg room]
        exact ⟨rfl, rfl⟩
      · rw [asked, State.requestNotice, if_neg room]
        cases p <;> rfl
  · refine ⟨s.reports, (s.port p).notice, ?_, ?_⟩
    · rw [NoticeAsked, if_neg ask]
      exact ⟨rfl, rfl⟩
    · have silent : s.askNotice (.port p) = s :=
        if_neg (by simpa [State.noticeEnabled, State.noticeState] using ask)
      rw [silent]
      exact (State.setPort_port_self s p).symm

theorem State.setLine_self {s : State} {n : Nat} (h : n < s.lines.length) : s.setLine n (s.line n) = s := by
  have line : s.line n = s.lines[n] := by simp [State.line, h]
  rw [State.setLine, line, List.set_getElem_self]

/-- A line that asks moves its notice state and the queue as `NoticeAsked` says, and nothing else. -/
theorem State.askNotice_line (s : State) {i : Nat} (hi : i < s.lines.length) : ∃ q n,
    NoticeAsked (.line i)
      (.event i (s.line i).capture.polarity (s.line i).capture.count (s.line i).capture.time s.time)
      (s.line i).config.noticeEn s.reports (s.line i).notice q n ∧
    s.askNotice (.line i) = (s.setReports q).setLine i { s.line i with notice := n } := by
  by_cases ask : (s.line i).config.noticeEn = true ∧ (s.line i).notice = .none
  · have asked : s.askNotice (.line i) = s.requestNotice (.line i) :=
      if_pos (by simpa [State.noticeEnabled, State.noticeState] using ask)
    by_cases room : 1 ≤ s.reports.room
    · refine ⟨s.reports.push (s.noticeReport (.line i)), .queued, ?_, ?_⟩
      · rw [NoticeAsked, if_pos ask, if_pos room]
        exact ⟨rfl, rfl⟩
      · rw [asked, State.requestNotice, if_pos room]
        rfl
    · refine ⟨{ s.reports with owed := s.reports.owed ++ [.line i] }, .owed, ?_, ?_⟩
      · rw [NoticeAsked, if_pos ask, if_neg room]
        exact ⟨rfl, rfl⟩
      · rw [asked, State.requestNotice, if_neg room]
        rfl
  · refine ⟨s.reports, (s.line i).notice, ?_, ?_⟩
    · rw [NoticeAsked, if_neg ask]
      exact ⟨rfl, rfl⟩
    · have silent : s.askNotice (.line i) = s :=
        if_neg (by simpa [State.noticeEnabled, State.noticeState] using ask)
      rw [silent]
      exact (State.setLine_self hi).symm

/-! ### The drain -/

theorem State.NoticesMoved.noticeReport {s t : State} (h : s.NoticesMoved t) (src : Source) :
    t.noticeReport src = s.noticeReport src := by
  cases src with
  | line n =>
    obtain ⟨x, hx⟩ := h.lines n
    simp only [State.noticeReport, hx, h.time]
  | port p =>
    obtain ⟨x, hx⟩ := h.ports p
    simp only [State.noticeReport, hx, h.time]

theorem State.NoticesMoved.eq {s t : State} (h : s.NoticesMoved t) :
    t = { s with reports := t.reports, lines := t.lines, portA := t.portA, portB := t.portB } := by
  obtain ⟨pending, slots, counter, pool, time, timeSet, tick, pins, link, -, -, -, -, -⟩ := h
  cases s
  cases t
  simp_all

/-- `t` is what `s` comes to where the notices of `srcs` are queued in order with their present
content. -/
structure State.Drained (s : State) (srcs : List Source) (t : State) : Prop where
  lines   : ∀ n, n < s.lines.length → t.line n = { s.line n with
    notice := if Source.line n ∈ srcs then .queued else (s.line n).notice }
  ports   : ∀ p, t.port p = { s.port p with
    notice := if Source.port p ∈ srcs then .queued else (s.port p).notice }
  reports : t.reports = { (srcs.map s.noticeReport).foldl ReportQueue.push s.reports with
    owed := t.reports.owed }

theorem State.setOwed_drained (s : State) (q : ReportQueue) : s.Drained [] 
    (s.setReports { s.reports with owed := q.owed }) where
  lines := fun n _ => by simp
  ports := fun p => by simp
  reports := rfl

/-- One notice queued, then the rest. -/
theorem State.Drained.cons {s t : State} {src : Source} {srcs : List Source}
    (h : (s.queueNotice src).Drained srcs t) : s.Drained (src :: srcs) t := by
  have moved := s.queueNotice_moved src
  refine ⟨fun n hn => ?_, fun p => ?_, ?_⟩
  · rw [h.lines n (by rw [moved.count]; exact hn)]
    by_cases e : src = .line n
    · subst e
      have line : (s.queueNotice (.line n)).line n = { s.line n with notice := .queued } :=
        State.line_setLine_same _ _ hn
      rw [line]
      simp
    · have line : (s.queueNotice src).line n = s.line n := by
        cases src with
        | line m => exact State.line_setLine_other _ _ (fun c => e (by rw [c]))
        | port q => exact State.line_setPort _ _ _ _
      rw [line]
      simp [Ne.symm e]
  · rw [h.ports p]
    by_cases e : src = .port p
    · subst e
      have port : (s.queueNotice (.port p)).port p = { s.port p with notice := .queued } := by
        cases p <;> rfl
      rw [port]
      simp
    · have port : (s.queueNotice src).port p = s.port p := by
        cases src with
        | line m => rfl
        | port q => exact State.setPort_port_other _ _ (fun c => e (by rw [c]))
      rw [port]
      simp [Ne.symm e]
  · rw [h.reports, List.map_cons, List.foldl_cons]
    have content : (s.queueNotice src).noticeReport = s.noticeReport := funext moved.noticeReport
    have queue : (s.queueNotice src).reports = s.reports.push (s.noticeReport src) :=
      State.reports_setNotice _ _ _
    rw [content, queue]

theorem ReportQueue.room_push (q : ReportQueue) (r : Report) : (q.push r).room = q.room - 1 := by
  simp only [ReportQueue.room, ReportQueue.push, List.length_append, List.length_singleton]
  omega

/-- The drain queues as many of the owed as there is room for, oldest first (R154). -/
theorem drainOwed_drained : ∀ (l : List Source) (s : State),
    s.Drained (l.take (min l.length s.reports.room)) (drainOwed l s) ∧
      (drainOwed l s).reports.owed = l.drop (min l.length s.reports.room)
  | [], s => ⟨State.setOwed_drained s { s.reports with owed := [] }, rfl⟩
  | src :: rest, s => by
    by_cases room : 1 ≤ s.reports.room
    · have step : drainOwed (src :: rest) s = drainOwed rest (s.queueNotice src) := if_pos room
      have roomLeft : (s.queueNotice src).reports.room = s.reports.room - 1 := by
        rw [← ReportQueue.room_push s.reports (s.noticeReport src)]
        exact congrArg _ (State.reports_setNotice _ _ _)
      obtain ⟨drained, owed⟩ := drainOwed_drained rest (s.queueNotice src)
      have count : min (src :: rest).length s.reports.room =
          min rest.length (s.reports.room - 1) + 1 := by
        rw [List.length_cons]
        omega
      rw [step, count, List.take_succ_cons, List.drop_succ_cons]
      rw [roomLeft] at drained owed
      exact ⟨drained.cons, owed⟩
    · have stop : drainOwed (src :: rest) s = s.setReports { s.reports with owed := src :: rest } :=
        if_neg room
      have none : min (src :: rest).length s.reports.room = 0 := by omega
      rw [stop, none]
      exact ⟨State.setOwed_drained s { s.reports with owed := src :: rest }, rfl⟩

theorem foldl_push_queued : ∀ (l : List Report) (q : ReportQueue),
    (l.foldl ReportQueue.push q).queued = q.queued ++ l
  | [], q => (List.append_nil _).symm
  | r :: l, q => by
    rw [List.foldl_cons, foldl_push_queued l]
    simp [ReportQueue.push]

/-! ### ATTN -/

/-- Whether a queue's enables let a report's kind assert ATTN, kind by kind. -/
theorem Enables.allows_iff (e : Enables) (r : Report) : e.allows r = true ↔ match r with
    | .job _ => e.job = true
    | .event _ _ _ _ _ => e.event = true
    | .port _ _ _ => e.port = true := by
  cases r <;> rfl

end Sys2Proof.Machine

open Sys2Proof Sys2Proof.Machine

/-- Settles O22: the notice laws of a line, of a port and of the drain, and ATTN in its two modes. -/
theorem noticesAreQueuedOrOwedAndDrainedInOrder : Obligations.NoticesAreQueuedOrOwedAndDrainedInOrder := by
  unfold Obligations.NoticesAreQueuedOrOwedAndDrainedInOrder
  refine ⟨fun s n hn => ?_, fun s p => ?_, fun s => ?_, fun s => rfl, fun q => ?_⟩
  · obtain ⟨q, x, asked, eq⟩ := s.askNotice_line hn
    have line : ((s.setReports q).setLine n { s.line n with notice := x }).line n =
        { s.line n with notice := x } := State.line_setLine_same _ _ hn
    rw [eq]
    dsimp only
    rw [line]
    exact ⟨asked, rfl⟩
  · obtain ⟨q, x, asked, eq⟩ := s.askNotice_port p
    rw [eq]
    dsimp only
    rw [State.setPort_port_same, State.setPort_reports, State.setReports_reports]
    exact ⟨asked, by cases p <;> rfl⟩
  · intro k drained content t
    have content_eq : content = s.noticeReport := funext fun src => by cases src <;> rfl
    obtain ⟨hd, owed⟩ := drainOwed_drained s.reports.owed s
    have moved : s.NoticesMoved t := s.drain_moved
    have reports : t.reports = { (drained.map content).foldl ReportQueue.push s.reports with
        owed := s.reports.owed.drop k } := by
      rw [content_eq, ← owed]
      exact hd.reports
    refine ⟨reports, ?_, moved.count, hd.lines, hd.ports, moved.eq⟩
    rw [reports]
    exact foldl_push_queued _ _
  · intro enabled
    have allows (r : Report) : q.enables.allows r = true ↔ enabled r := Enables.allows_iff _ r
    refine ⟨fun level => ?_, fun pulse => ?_, fun r pulse on => ?_, fun r off => ?_⟩
    · simp only [ReportQueue.attn, level, List.any_eq_true, allows]
    · simp only [ReportQueue.attn, pulse, Option.isSome_iff_exists]
    · simp only [ReportQueue.push, pulse, (allows r).2 on, beq_self_eq_true, Bool.and_self, if_true]
    · have same : (q.attnMode == .pulse && q.enables.allows r) = false := by
        rcases off with level | disabled
        · rw [level]
          rfl
        · rw [Bool.eq_false_iff.2 (mt (allows r).1 disabled), Bool.and_false]
      simp only [ReportQueue.push, same, Bool.false_eq_true, if_false]

end

section
/-! SUPPORT. The bytes of the report records (R177), and the one event of a READ_REPORTS (R155, R156). -/

namespace Sys2Proof.Machine

/-! ### Multi-byte fields and records -/

theorem bytesBE_length : ∀ k n, (bytesBE k n).length = k
  | 0, _ => rfl
  | k + 1, n => congrArg (· + 1) (bytesBE_length k n)

theorem bytesBE_getD : ∀ (k n i : Nat), i < k →
    (bytesBE k n).getD i 0 = BitVec.ofNat 8 (n / 256 ^ (k - 1 - i))
  | k + 1, n, 0, _ => rfl
  | k + 1, n, i + 1, h => by
    have below : k + 1 - 1 - (i + 1) = k - 1 - i := by omega
    rw [below]
    exact bytesBE_getD k n i (Nat.lt_of_succ_lt_succ h)

theorem reportFlags_eq_add (r : JobReport) : reportFlags r =
    (if r.late then 0x01 else 0x00) + (if r.last then 0x02 else 0x00) + (if r.long then 0x04 else 0x00) := by
  simp only [reportFlags, flagBit]
  cases r.late <;> cases r.last <;> cases r.long <;> rfl

theorem timeBytes_getD (marks : List Time) (i : Nat) : timeBytes (marks.getD i 0) =
    bytesBE 6 (match marks[i]? with | some time => time.toNat | none => 0) := by
  rw [List.getD_eq_getElem?_getD]
  cases marks[i]? <;> rfl

/-! ### One event of READ_REPORTS -/

theorem deliverNotices_eq_foldl : ∀ (l : List Report) (s : State),
    deliverNotices l s = l.foldl State.deliverNotice s
  | [], _ => rfl
  | r :: l, s => deliverNotices_eq_foldl l (s.deliverNotice r)

theorem compareAll_eq_foldl : ∀ (l : List Report) (s : State),
    compareAll l s = l.foldl State.compareDelivered s
  | [], _ => rfl
  | r :: l, s => compareAll_eq_foldl l (s.compareDelivered r)

theorem State.compareDelivered_job (s : State) (j : JobReport) : s.compareDelivered (.job j) = s := rfl

theorem State.compareDelivered_event (s : State) (n count : Nat) (polarity : Polarity)
    (edge time : Time) : s.compareDelivered (.event n polarity count edge time) =
      if (s.line n).capture.count ≠ 0 ∧ (s.line n).capture.count ≠ count
      then s.askNotice (.line n) else s := by
  simp [State.compareDelivered, Report.source, State.movedOn]

theorem State.compareDelivered_port (s : State) (p : PortId) (shown : ShownState) (time : Time) :
    s.compareDelivered (.port p shown time) =
      if (s.port p).state.reported ≠ shown then s.askNotice (.port p) else s := by
  simp [State.compareDelivered, Report.source, State.movedOn]

theorem State.compareDelivered_moved (s : State) (r : Report) : s.NoticesMoved (s.compareDelivered r) := by
  unfold State.compareDelivered
  split
  · split
    · exact s.askNotice_moved _
    · exact State.NoticesMoved.refl s
  · exact State.NoticesMoved.refl s

theorem compareAll_moved : ∀ (l : List Report) (s : State), s.NoticesMoved (compareAll l s)
  | [], s => State.NoticesMoved.refl s
  | r :: l, s => (s.compareDelivered_moved r).trans (compareAll_moved l _)

/-- A report without a source, a job report, is delivered and compared with nothing. -/
theorem State.delivered_of_noSource {s : State} {r : Report} (h : r.source = none) :
    s.deliverNotice r = s ∧ s.compareDelivered r = s := by
  simp [State.deliverNotice, State.compareDelivered, h]

theorem deliverAll_of_noSource : ∀ {l : List Report} (s : State), (∀ x ∈ l, x.source = none) →
    deliverNotices l s = s ∧ compareAll l s = s
  | [], s, _ => ⟨rfl, rfl⟩
  | r :: l, s, h => by
    obtain ⟨deliver, compare⟩ := State.delivered_of_noSource (s := s) (h r (List.mem_cons_self ..))
    obtain ⟨delivers, compares⟩ := deliverAll_of_noSource (l := l) s
      (fun x hx => h x (List.mem_cons_of_mem _ hx))
    exact ⟨by rw [deliverNotices, deliver, delivers], by rw [compareAll, compare, compares]⟩

theorem State.drain_of_owed_nil {s : State} (h : s.reports.owed = []) : s.drain = s := by
  rw [State.drain, h]
  show s.setReports { s.reports with owed := [] } = s
  rw [← h]
  rfl

/-! ### The hand is outside it -/

theorem State.setNotice_emptyHand (s : State) (src : Source) (x : NoticeState) :
    s.emptyHand.setNotice src x = (s.setNotice src x).emptyHand := by
  cases src with
  | line n => rfl
  | port p => cases p <;> rfl

theorem State.queueNotice_emptyHand (s : State) (src : Source) :
    s.emptyHand.queueNotice src = (s.queueNotice src).emptyHand := by
  cases src with
  | line n => rfl
  | port p => cases p <;> rfl

theorem State.requestNotice_emptyHand (s : State) (src : Source) :
    s.emptyHand.requestNotice src = (s.requestNotice src).emptyHand := by
  by_cases room : 1 ≤ s.reports.room
  · rw [State.requestNotice, State.requestNotice, if_pos room]
    exact (if_pos room).trans (s.queueNotice_emptyHand src)
  · rw [State.requestNotice, State.requestNotice, if_neg room]
    exact (if_neg room).trans
      ((s.setReports { s.reports with owed := s.reports.owed ++ [src] }).setNotice_emptyHand src .owed)

theorem State.noticeGuard_emptyHand (s : State) (src : Source) :
    (s.emptyHand.noticeEnabled src && s.emptyHand.noticeState src == .none) =
      (s.noticeEnabled src && s.noticeState src == .none) := by
  cases src with
  | line n => rfl
  | port p => cases p <;> rfl

theorem State.askNotice_emptyHand (s : State) (src : Source) :
    s.emptyHand.askNotice src = (s.askNotice src).emptyHand := by
  rw [State.askNotice, State.askNotice, s.noticeGuard_emptyHand]
  split
  · exact s.requestNotice_emptyHand src
  · rfl

theorem drainOwed_emptyHand : ∀ (l : List Source) (s : State),
    drainOwed l s.emptyHand = (drainOwed l s).emptyHand
  | [], _ => rfl
  | src :: rest, s => by
    by_cases room : 1 ≤ s.reports.room
    · calc drainOwed (src :: rest) s.emptyHand = drainOwed rest (s.emptyHand.queueNotice src) := if_pos room
        _ = (drainOwed rest (s.queueNotice src)).emptyHand := by
          rw [s.queueNotice_emptyHand, drainOwed_emptyHand]
        _ = (drainOwed (src :: rest) s).emptyHand := congrArg _ (if_pos room).symm
    · have stop : drainOwed (src :: rest) s = s.setReports { s.reports with owed := src :: rest } :=
        if_neg room
      rw [stop]
      exact if_neg room

theorem deliverNotices_emptyHand : ∀ (l : List Report) (s : State),
    deliverNotices l s.emptyHand = (deliverNotices l s).emptyHand
  | [], _ => rfl
  | r :: l, s => by
    have deliver : s.emptyHand.deliverNotice r = (s.deliverNotice r).emptyHand := by
      cases h : r.source with
      | none => simp only [State.deliverNotice, h]
      | some src => simp only [State.deliverNotice, h, s.setNotice_emptyHand]
    rw [deliverNotices, deliver, deliverNotices_emptyHand]
    rfl

theorem State.movedOn_emptyHand (s : State) (r : Report) : s.emptyHand.movedOn r = s.movedOn r := by
  cases r with
  | job j => rfl
  | event n polarity count edge time => rfl
  | port p shown time => cases p <;> rfl

theorem compareAll_emptyHand : ∀ (l : List Report) (s : State),
    compareAll l s.emptyHand = (compareAll l s).emptyHand
  | [], _ => rfl
  | r :: l, s => by
    have compare : s.emptyHand.compareDelivered r = (s.compareDelivered r).emptyHand := by
      unfold State.compareDelivered
      rw [s.movedOn_emptyHand]
      split
      · split
        · exact s.askNotice_emptyHand _
        · rfl
      · rfl
    rw [compareAll, compare, compareAll_emptyHand]
    rfl

theorem State.removeReports_emptyHand (s : State) (k : Nat) :
    s.emptyHand.removeReports k = (s.removeReports k).emptyHand := by
  have left : s.emptyHand.setReports { s.emptyHand.reports with
      queued := s.emptyHand.reports.queued.drop k } =
    (s.setReports { s.reports with queued := s.reports.queued.drop k }).emptyHand := rfl
  have drain (u : State) : u.emptyHand.drain = u.drain.emptyHand := drainOwed_emptyHand _ u
  unfold State.removeReports
  dsimp only
  rw [left, deliverNotices_emptyHand, drain, compareAll_emptyHand]
  rfl

/-- What the event moves: notices only, once the reports have left. -/
theorem State.removeReports_moved (s : State) (k : Nat) :
    (s.setReports { s.reports with queued := s.reports.queued.drop k }).NoticesMoved (s.removeReports k) :=
  ((deliverNotices_moved _ _).trans (State.drain_moved _)).trans (compareAll_moved _ _)

theorem State.removeReports_silent {s : State} {k : Nat} (owed : s.reports.owed = [])
    (h : ∀ x ∈ s.reports.queued.take k, x.source = none) : s.removeReports k =
      s.setReports { s.reports with queued := s.reports.queued.drop k } := by
  have drain : (s.setReports { s.reports with queued := s.reports.queued.drop k }).drain =
      s.setReports { s.reports with queued := s.reports.queued.drop k } := State.drain_of_owed_nil owed
  rw [State.removeReports, (deliverAll_of_noSource _ h).1, drain,
    (deliverAll_of_noSource _ h).2]

theorem exec_readReports_of {s t : State} {r : Request} {payload : List Byte}
    (h : s.MayCarryOut .readReports r) (size : r.payload.length = 1)
    (effect : readReportsEffect r.payload s.emptyHand = (t.emptyHand, payload)) :
    exec .readReports s = .next (t.replied r payload) := by
  have quiet : s.Quiet := h.1.1
  show Host.Outcome.next (s.beforeEvent.serve .readReports openNever _) = _
  rw [quiet.beforeEvent, State.serve_answers h (by rw [size]; rfl) effect]

theorem readReportsEffect_refused {max : Byte} (s : State) (h : max.toNat = 0 ∨ 3 < max.toNat) :
    readReportsEffect [max] s = (s, [0x11, 0, 0]) := if_pos h

theorem readReportsEffect_accepted {max : Byte} (s : State) (h : ¬(max.toNat = 0 ∨ 3 < max.toNat)) :
    readReportsEffect [max] s.emptyHand = ((s.removeReports max.toNat).emptyHand,
      [0x00, b1 (s.reports.queued.take max.toNat).length,
        b1 (s.removeReports max.toNat).reports.queued.length]
      ++ (s.reports.queued.take max.toNat).flatMap Report.bytes) := by
  have effect : readReportsEffect [max] s.emptyHand = (s.emptyHand.removeReports max.toNat,
      [0x00, b1 (s.reports.queued.take max.toNat).length,
        b1 (s.emptyHand.removeReports max.toNat).reports.queued.length]
      ++ (s.reports.queued.take max.toNat).flatMap Report.bytes) := if_neg h
  rw [effect, s.removeReports_emptyHand]
  rfl

end Sys2Proof.Machine

open Sys2Proof Sys2Proof.Machine

/-- Settles O23: the records byte by byte, then the event as two folds about a drain. -/
theorem readReportsRemovesTheOldest : Obligations.ReadReportsRemovesTheOldest := by
  unfold Obligations.ReadReportsRemovesTheOldest
  intro state outcome mark record
  have jobBytes (j : JobReport) : j.bytes = record (.job j) := by
    have outcomeAt : outcome j.outcome = j.outcome.code := by cases j.outcome <;> rfl
    have flags := reportFlags_eq_add j
    have first : timeBytes (j.marks.getD 0 0) = bytesBE 6 (mark j 0) := timeBytes_getD _ _
    have second : timeBytes (j.marks.getD 1 0) = bytesBE 6 (mark j 1) := timeBytes_getD _ _
    simp only [JobReport.bytes, flags, first, second]
    simp only [record, outcomeAt]
    rfl
  have bytes (x : Report) : x.bytes = record x := by
    cases x with
    | job j => exact jobBytes j
    | event n polarity count edge time => cases polarity <;> rfl
    | port p shown time => cases p <;> cases shown <;> rfl
  refine ⟨fun k n => ⟨bytesBE_length k n, fun i h => bytesBE_getD k n i h⟩, bytes, jobBytes,
    fun s r max h payload => ⟨fun bad => ?_, fun notZero small => ?_⟩⟩
  · refine exec_readReports_of h (by rw [payload]; rfl) ?_
    rw [payload]
    refine readReportsEffect_refused _ (bad.imp (fun e => by rw [e]; rfl) (fun h => by omega))
  · intro removed left delivered t
    have deliver : delivered = deliverNotices removed left := by
      rw [deliverNotices_eq_foldl]
      rfl
    have event : t = s.removeReports max.toNat := by
      show removed.foldl _ delivered.drain = compareAll removed (deliverNotices removed left).drain
      rw [compareAll_eq_foldl, deliver]
      refine congrArg (fun f => removed.foldl f _) (funext₂ fun u x => ?_)
      cases x with
      | job j => rfl
      | event n polarity count edge time => exact (u.compareDelivered_event n count polarity edge time).symm
      | port p shown time => exact (u.compareDelivered_port p shown time).symm
    have notZero' : max.toNat ≠ 0 := fun e => notZero (BitVec.eq_of_toNat_eq e)
    have moved := s.removeReports_moved max.toNat
    rw [event]
    refine ⟨?_, ?_⟩
    · refine exec_readReports_of h (by rw [payload]; rfl) ?_
      rw [payload, ← funext bytes]
      exact readReportsEffect_accepted s (by omega)
    · obtain ⟨notices, queued, sources⟩ := moved.queued
      refine ⟨notices, queued, sources, moved.reserved, moved.slots, moved.time, moved.link,
        fun owed jobs => ?_⟩
      have same := State.removeReports_silent owed jobs
      rw [same] at queued ⊢
      exact ⟨List.self_eq_append_right.1 queued, owed, rfl, rfl, rfl⟩

end

section
/-! SUPPORT. CONFIG_PORT: its checks in order (R107), and how it moves a port into service or by its new
presence setting (R108 to R110). -/

namespace Sys2Proof.Machine

/-! ### The fields of a CONFIG_PORT (R107) -/

section
variable {p : List Byte} {port : PortId} {mode : PortMode} {speed : Speed} {slow : Slowing}
  {presence : PresenceSetting} {en : Bool}

theorem portSettingsOf_noPort (h : portOfCode (byteAt p 0) = none) :
    portSettingsOf p = .error [0x11, 0, 0] := by
  simp only [portSettingsOf, h]
  rfl

theorem portSettingsOf_badMode (hp : portOfCode (byteAt p 0) = some port)
    (h : PortMode.ofCode (byteAt p 1) = none) : portSettingsOf p = .error [0x11, 0, 1] := by
  simp only [portSettingsOf, hp, h]
  rfl

theorem portSettingsOf_badSpeed (hp : portOfCode (byteAt p 0) = some port)
    (hm : PortMode.ofCode (byteAt p 1) = some mode) (h : Speed.ofCode (byteAt p 2) = none) :
    portSettingsOf p = .error [0x11, 0, 2] := by
  simp only [portSettingsOf, hp, hm, h]
  rfl

theorem portSettingsOf_badSlowing (hp : portOfCode (byteAt p 0) = some port)
    (hm : PortMode.ofCode (byteAt p 1) = some mode) (hs : Speed.ofCode (byteAt p 2) = some speed)
    (h : Slowing.ofCode (byteAt p 3) = none) : portSettingsOf p = .error [0x11, 0, 3] := by
  simp only [portSettingsOf, hp, hm, hs, h]
  rfl

theorem portSettingsOf_badStretch (hp : portOfCode (byteAt p 0) = some port)
    (hm : PortMode.ofCode (byteAt p 1) = some mode) (hs : Speed.ofCode (byteAt p 2) = some speed)
    (hw : Slowing.ofCode (byteAt p 3) = some slow) (h : fieldAt p 4 2 = 0) :
    portSettingsOf p = .error [0x11, 0, 4] := by
  simp only [portSettingsOf, hp, hm, hs, hw, if_pos h]
  rfl

theorem portSettingsOf_badPresence (hp : portOfCode (byteAt p 0) = some port)
    (hm : PortMode.ofCode (byteAt p 1) = some mode) (hs : Speed.ofCode (byteAt p 2) = some speed)
    (hw : Slowing.ofCode (byteAt p 3) = some slow) (hl : fieldAt p 4 2 ≠ 0)
    (h : PresenceSetting.ofCode (byteAt p 6) = none) : portSettingsOf p = .error [0x11, 0, 6] := by
  simp only [portSettingsOf, hp, hm, hs, hw, if_neg hl, h]
  rfl

theorem portSettingsOf_badEnable (hp : portOfCode (byteAt p 0) = some port)
    (hm : PortMode.ofCode (byteAt p 1) = some mode) (hs : Speed.ofCode (byteAt p 2) = some speed)
    (hw : Slowing.ofCode (byteAt p 3) = some slow) (hl : fieldAt p 4 2 ≠ 0)
    (hr : PresenceSetting.ofCode (byteAt p 6) = some presence) (h : onOffOfCode (byteAt p 9) = none) :
    portSettingsOf p = .error [0x11, 0, 9] := by
  simp only [portSettingsOf, hp, hm, hs, hw, if_neg hl, hr, h]
  rfl

theorem portSettingsOf_ok (hp : portOfCode (byteAt p 0) = some port)
    (hm : PortMode.ofCode (byteAt p 1) = some mode) (hs : Speed.ofCode (byteAt p 2) = some speed)
    (hw : Slowing.ofCode (byteAt p 3) = some slow) (hl : fieldAt p 4 2 ≠ 0)
    (hr : PresenceSetting.ofCode (byteAt p 6) = some presence) (he : onOffOfCode (byteAt p 9) = some en) :
    portSettingsOf p = .ok (port, {
      mode := mode
      speed := speed
      slowing := slow
      stretchLimit := BitVec.ofNat 16 (fieldAt p 4 2)
      presence := presence
      settleTime := BitVec.ofNat 16 (fieldAt p 7 2)
      noticeEn := en }) := by
  simp only [portSettingsOf, hp, hm, hs, hw, if_neg hl, hr, he]

end

/-- Two bytes spell the number they were made of. -/
theorem natBE_bytesBE_two {n : Nat} (h : n < 65536) : natBE (bytesBE 2 n) = n := by
  have bytes : bytesBE 2 n = [BitVec.ofNat 8 (n / 256), BitVec.ofNat 8 n] := by
    simp [bytesBE]
  rw [bytes, natBE_pair]
  simp only [BitVec.toNat_ofNat]
  omega

/-- The payload that gives port `p` the settings `c`. -/
def PortSettings.payload (p : PortId) (c : PortSettings) : List Byte :=
  [portCode p, c.mode.code, c.speed.code, c.slowing.code] ++ bytesBE 2 c.stretchLimit.toNat
    ++ [c.presence.code] ++ bytesBE 2 c.settleTime.toNat ++ [if c.noticeEn then 1 else 0]

theorem portSettingsOf_payload (p : PortId) {c : PortSettings} (h : c.stretchLimit ≠ 0) :
    portSettingsOf (c.payload p) = .ok (p, c) := by
  have stretch : fieldAt (c.payload p) 4 2 = c.stretchLimit.toNat := natBE_bytesBE_two c.stretchLimit.isLt
  have settle : fieldAt (c.payload p) 7 2 = c.settleTime.toNat := natBE_bytesBE_two c.settleTime.isLt
  have notZero : fieldAt (c.payload p) 4 2 ≠ 0 := by
    rw [stretch]
    exact fun e => h (BitVec.eq_of_toNat_eq e)
  rw [portSettingsOf_ok (p := c.payload p) (portOfCode_portCode p) (PortMode.ofCode_code _) (Speed.ofCode_code _)
    (Slowing.ofCode_code _) notZero (PresenceSetting.ofCode_code _) (onOffOfCode_ite _), stretch, settle]
  simp only [BitVec.ofNat_toNat, BitVec.setWidth_eq]

/-! ### The port's own checks (R107) -/

theorem PortMode.ofCode_eq_off {b : Byte} (h : PortMode.ofCode b = some .off) : b = 0 := by
  by_contra notZero
  rw [PortMode.ofCode, if_neg notZero] at h
  split at h
  · cases h
  · split at h <;> cases h

section
variable {p e : List Byte} {port : PortId} {c : PortSettings} {l : Levels} {s : State}

theorem configPortEffect_refused (h : portSettingsOf p = .error e) : configPortEffect l p s = (s, e) := by
  simp only [configPortEffect, h]

theorem PortState.busy_iff (x : PortState) : x.busy = true ↔
    (∃ run, x = .running run) ∨ ∃ o n, x = .recovering o n := by
  cases x <;> simp [PortState.busy]

theorem configPortEffect_busy (h : portSettingsOf p = .ok (port, c))
    (busy : (s.port port).state.busy = true) : configPortEffect l p s = (s, [0x26]) := by
  simp only [configPortEffect, h, if_pos busy]
  rfl

theorem configPortEffect_pins (h : portSettingsOf p = .ok (port, c))
    (free : ¬(s.port port).state.busy = true) (hb : port = .b) (on : c.mode ≠ .off)
    (watches : s.sharedLineWatches = true) : configPortEffect l p s = (s, [0x27]) := by
  have pins : (port == .b && c.mode != .off && s.sharedLineWatches) = true := by
    simp [hb, on, watches]
  simp only [configPortEffect, h, if_neg free, if_pos pins]
  rfl

theorem configPortEffect_accepted (h : portSettingsOf p = .ok (port, c))
    (free : ¬(s.port port).state.busy = true)
    (pins : port = .b → c.mode ≠ .off → s.sharedLineWatches = false) :
    configPortEffect l p s = ((s.readLines port l).applySettings port c,
      [0x00, (((s.readLines port l).applySettings port c).port port).state.shown.code]) := by
  have noPins : ¬(port == .b && c.mode != .off && s.sharedLineWatches) = true := by
    intro all
    simp only [Bool.and_eq_true, beq_iff_eq, bne_iff_ne] at all
    rw [pins all.1.1 all.1.2] at all
    exact absurd all.2 (by decide)
  simp only [configPortEffect, h, if_neg free, if_neg noPins]
  rfl

theorem State.sharedLineWatches_iff (s : State) : s.sharedLineWatches = true ↔
    (s.line 6).config.edge ≠ .off ∨ (s.line 7).config.edge ≠ .off := by
  simp [State.sharedLineWatches]

end

end Sys2Proof.Machine

open Sys2Proof Sys2Proof.Machine

/-- Settles O35, check by check. -/
theorem configPortIsRefusedInOrder : Obligations.ConfigPortIsRefusedInOrder := by
  unfold Obligations.ConfigPortIsRefusedInOrder
  intro s r l port mode speed slow s1 s2 pres t1 t2 en h payload refused
  have refuse {e : List Byte} (effect : configPortEffect l r.payload s.emptyHand = (s.emptyHand, e)) :
      refused e := exec_configPort_of h (by rw [payload]; rfl) effect
  rw [payload] at refuse
  refine ⟨fun notA notB => refuse (configPortEffect_refused
    (portSettingsOf_noPort (portOfCode_eq_none notA notB))), fun p portIs => ?_⟩
  subst portIs
  have hp := portOfCode_portCode p
  refine ⟨fun bad => refuse (configPortEffect_refused
    (portSettingsOf_badMode hp (PortMode.codes.eq_none bad))), fun goodMode => ?_⟩
  obtain ⟨m, hm⟩ := PortMode.codes.exists_eq goodMode
  refine ⟨fun bad => refuse (configPortEffect_refused
    (portSettingsOf_badSpeed hp hm (Speed.codes.eq_none bad))), fun goodSpeed bad => ?_,
    fun goodSpeed goodSlow => ?_⟩
  · obtain ⟨v, hv⟩ := Speed.codes.exists_eq goodSpeed
    exact refuse (configPortEffect_refused (portSettingsOf_badSlowing hp hm hv (Slowing.codes.eq_none bad)))
  obtain ⟨v, hv⟩ := Speed.codes.exists_eq goodSpeed
  obtain ⟨w, hw⟩ := Slowing.codes.exists_eq goodSlow
  have stretch : fieldAt [portCode p, mode, speed, slow, s1, s2, pres, t1, t2, en] 4 2 =
      s1.toNat * 256 + s2.toNat := natBE_pair s1 s2
  refine ⟨fun zero1 zero2 => refuse (configPortEffect_refused (portSettingsOf_badStretch hp hm hv hw
    (by rw [stretch, zero1, zero2]; rfl))), fun notZero => ?_⟩
  have limit : fieldAt [portCode p, mode, speed, slow, s1, s2, pres, t1, t2, en] 4 2 ≠ 0 := by
    rw [stretch]
    intro zero
    refine notZero.elim (fun n => n (BitVec.eq_of_toNat_eq ?_)) (fun n => n (BitVec.eq_of_toNat_eq ?_))
    · show s1.toNat = 0
      omega
    · show s2.toNat = 0
      omega
  refine ⟨fun bad => refuse (configPortEffect_refused (portSettingsOf_badPresence hp hm hv hw limit
    (PresenceSetting.codes.eq_none bad))), fun goodPres bad => ?_, fun goodPres goodEn => ?_⟩
  · obtain ⟨x, hx⟩ := PresenceSetting.codes.exists_eq goodPres
    exact refuse (configPortEffect_refused (portSettingsOf_badEnable hp hm hv hw limit hx
      (onOff_codes.eq_none bad)))
  obtain ⟨x, hx⟩ := PresenceSetting.codes.exists_eq goodPres
  have ok := portSettingsOf_ok
    (p := [portCode p, mode, speed, slow, s1, s2, pres, t1, t2, en]) hp hm hv hw limit hx (onOffOfCode_of_lt goodEn)
  have port : s.emptyHand.port p = s.port p := by cases p <;> rfl
  refine ⟨fun busy => refuse (configPortEffect_busy ok ?_), fun noRun noRecovery isB on watches =>
    refuse (configPortEffect_pins ok ?_ isB ?_ ((State.sharedLineWatches_iff _).2 watches))⟩
  · rw [port]
    exact (PortState.busy_iff _).2 busy
  · rw [port]
    exact fun busy => ((PortState.busy_iff _).1 busy).elim (fun ⟨run, e⟩ => noRun run e)
      (fun ⟨o, n, e⟩ => noRecovery o n e)
  · rintro (rfl : m = .off)
    exact on (PortMode.ofCode_eq_off hm)

end

section
/-! SUPPORT. How an accepted CONFIG_PORT moves a port that it leaves OFF or in service (R108 to R110). -/

namespace Sys2Proof.Machine

/-! ### What reading the lines and taking the shared pins leave -/

@[simp] theorem State.port_readLines (s : State) (p : PortId) (l : Levels) (q : PortId) :
    (s.readLines p l).port q = s.port q := by cases p <;> rfl

@[simp] theorem State.linesOf_readLines (s : State) (p : PortId) (l : Levels) :
    (s.readLines p l).linesOf p = l := by cases p <;> rfl

/-- The levels of the pins, apart from any field of a port. -/
theorem State.linesOf_setPort (s : State) (p q : PortId) (x : Port) :
    (s.setPort p x).linesOf q = s.linesOf q := by cases p <;> cases q <;> rfl

/-- The pins of EV6 and EV7 as port B takes them into service (R69). -/
structure State.PinsTaken (s t : State) : Prop where
  ports   : ∀ q, t.port q = s.port q
  lines   : ∀ q, t.linesOf q = s.linesOf q
  config  : ∀ n, (t.line n).config = (s.line n).config ∧ (t.line n).capture = (s.line n).capture ∧
    (t.line n).notice = (s.line n).notice
  others  : ∀ n, n ≠ 6 ∧ n ≠ 7 → t.line n = s.line n
  cleared : ∀ n, n < s.lines.length → n = 6 ∨ n = 7 → (t.line n).sampler = Sampler.cleared
  tick    : t.tick = { s.tick with edges := s.tick.edges.filter (fun n => decide (n < 6)) }
  reports : t.reports = s.reports
  link    : t.link = s.link
  slots   : t.slots = s.slots
  pool    : t.pool = s.pool
  time    : t.time = s.time

theorem State.clearSampler_line (s : State) (n m : Nat) :
    ((s.setLine n { s.line n with sampler := Sampler.cleared }).line m) =
      if m = n ∧ n < s.lines.length then { s.line m with sampler := Sampler.cleared } else s.line m := by
  rw [State.line_setLine]
  split
  · next at_ => rw [at_.1]
  · rfl

theorem State.takeSharedPins_line (s : State) (n : Nat) : s.takeSharedPins.line n =
    if (n = 6 ∨ n = 7) ∧ n < s.lines.length then { s.line n with sampler := Sampler.cleared }
    else s.line n := by
  have first (m : Nat) := s.clearSampler_line 6 m
  have second (m : Nat) := (s.setLine 6 { s.line 6 with sampler := Sampler.cleared }).clearSampler_line 7 m
  have count : (s.setLine 6 { s.line 6 with sampler := Sampler.cleared }).lines.length = s.lines.length :=
    List.length_set ..
  show ((s.setLine 6 { s.line 6 with sampler := Sampler.cleared }).setLine 7 _).line n = _
  rw [second, first, count]
  by_cases six : n = 6
  · subst six
    simp
  · by_cases seven : n = 7
    · subst seven
      simp
    · simp [six, seven]

theorem State.takeSharedPins_taken (s : State) : s.PinsTaken s.takeSharedPins where
  ports := fun q => by cases q <;> rfl
  lines := fun q => by cases q <;> rfl
  config := fun n => by
    rw [s.takeSharedPins_line]
    split <;> exact ⟨rfl, rfl, rfl⟩
  others := fun n ⟨six, seven⟩ => by
    rw [s.takeSharedPins_line, if_neg (fun c => c.1.elim six seven)]
  cleared := fun n hn at_ => by
    rw [s.takeSharedPins_line, if_pos ⟨at_, hn⟩]
  tick := rfl
  reports := rfl
  link := rfl
  slots := rfl
  pool := rfl
  time := rfl

/-! ### Entries that ask for no notice -/

/-- The state a line check leads to: IDLE, or a recovery (R116). -/
def checkedState (l : Levels) (o : Origin) : PortState :=
  if l.scl = true ∧ l.sda = true then .idle else .recovering o .release

theorem bothHigh_iff (l : Levels) : bothHigh l = true ↔ l.scl = true ∧ l.sda = true := by
  simp [bothHigh]

theorem State.enterService_eq (s : State) (p : PortId) :
    s.enterService p = s.setPortState p (checkedState (s.linesOf p) .enable) := by
  rw [State.enterService, checkedState]
  simp only [bothHigh_iff]
  split <;> rfl

theorem State.endSettle_silent (s : State) (p : PortId) :
    s.endSettle p false = s.setPortState p (checkedState (s.linesOf p) .settle) := by
  rw [State.endSettle, checkedState]
  simp only [bothHigh_iff]
  split <;> rfl

theorem State.setPortState_setPortState (s : State) (p : PortId) (x y : PortState) :
    (s.setPortState p x).setPortState p y = s.setPortState p y := by
  cases p <;> rfl

theorem State.enterSettling_silent (s : State) (p : PortId) :
    s.enterSettling p false = s.setPortState p
      (if (s.port p).settings.settleTime = 0 then checkedState (s.linesOf p) .settle else .settling 0) := by
  have time : ((s.setPortState p (.settling 0)).port p).settings.settleTime =
      (s.port p).settings.settleTime := by rw [State.setPortState_port_same]
  have lines : (s.setPortState p (.settling 0)).linesOf p = s.linesOf p := State.linesOf_setPort _ _ _ _
  unfold State.enterSettling
  dsimp only
  rw [time]
  by_cases zero : (s.port p).settings.settleTime = 0
  · rw [if_pos zero, if_pos (beq_iff_eq.2 zero), State.endSettle_silent, lines,
      State.setPortState_setPortState]
  · rw [if_neg zero, if_neg (mt beq_iff_eq.1 zero)]

/-- A port into service: DETACHED with its notice, or the state that presence, settle and the line check
give it (R109). -/
def State.openState (s : State) (p : PortId) : PortState :=
  match (s.port p).settings.presence with
  | .ignore => checkedState (s.linesOf p) .enable
  | .require =>
    if (s.port p).present = true
    then (if (s.port p).settings.settleTime = 0 then checkedState (s.linesOf p) .settle else .settling 0)
    else .detached

/-- A port's entry into a state, which asks for a notice where it is into DETACHED. -/
def State.enterAsking (s : State) (p : PortId) (x : PortState) : State :=
  if x = .detached then s.enterDetached p else s.setPortState p x

theorem checkedState_ne_detached (l : Levels) (o : Origin) : checkedState l o ≠ PortState.detached := by
  unfold checkedState
  split <;> exact nofun

theorem State.enterAsking_checked (s : State) (p : PortId) (l : Levels) (o : Origin) :
    s.enterAsking p (checkedState l o) = s.setPortState p (checkedState l o) := if_neg (checkedState_ne_detached l o)

theorem State.openPort_eq (s : State) (p : PortId) : s.openPort p =
    (if p = .b then s.takeSharedPins else s).enterAsking p
      ((if p = .b then s.takeSharedPins else s).openState p) := by
  have guard : (if p == .b then s.takeSharedPins else s) = if p = .b then s.takeSharedPins else s := by
    cases p <;> rfl
  unfold State.openPort
  dsimp only
  rw [guard]
  generalize (if p = .b then s.takeSharedPins else s) = u
  cases presence : (u.port p).settings.presence with
  | ignore =>
    simp only [State.openState, presence]
    rw [State.enterAsking_checked, State.enterService_eq]
  | require =>
    simp only [State.openState, presence]
    by_cases present : (u.port p).present = true
    · rw [if_pos present, if_pos present, State.enterSettling_silent]
      refine (if_neg ?_).symm
      split
      · exact checkedState_ne_detached _ _
      · exact nofun
    · rw [if_neg present, if_neg present]
      exact (if_pos rfl).symm

/-- Where a port in service goes by its new settings; `none` where it stays (R110). -/
def Port.reconfigured (x : Port) (l : Levels) : Option PortState :=
  match x.settings.presence, x.state with
  | .ignore, .detached => some (checkedState l .enable)
  | .ignore, .settling _ => some (checkedState l .enable)
  | .require, .settling n => if x.settings.settleTime.toNat ≤ n then some (checkedState l .settle) else none
  | .require, .idle => if x.present = true then none else some .detached
  | .require, .stuck _ => if x.present = true then none else some .detached
  | _, _ => none

theorem State.reconfigure_eq (s : State) (p : PortId) : s.reconfigure p =
    match (s.port p).reconfigured (s.linesOf p) with
    | some x => s.enterAsking p x
    | none => s := by
  have due (n : Nat) (h : (s.port p).state = .settling n) : (s.port p).settleDue =
      decide ((s.port p).settings.settleTime.toNat ≤ n) := by simp only [Port.settleDue, h]
  unfold State.reconfigure Port.reconfigured
  dsimp only
  cases presence : (s.port p).settings.presence <;> cases state : (s.port p).state <;> dsimp only
  case ignore.detached => rw [State.enterService_eq, State.enterAsking_checked]
  case ignore.settling n => rw [State.enterService_eq, State.enterAsking_checked]
  case require.settling n =>
    simp only [due n state, decide_eq_true_eq]
    split
    · rw [State.endSettle_silent]
      exact (State.enterAsking_checked _ _ _ _).symm
    · rfl
  case require.idle =>
    split
    · rfl
    · exact (if_pos rfl).symm
  case require.stuck n =>
    split
    · rfl
    · exact (if_pos rfl).symm

theorem State.applySettings_off {s : State} {p : PortId} {c : PortSettings}
    (old : (s.port p).settings.mode = .off) (off : c.mode = .off) :
    s.applySettings p c = s.setPort p ((s.port p).configure c) := by
  unfold State.applySettings
  simp only [old, off]

theorem State.applySettings_opens {s : State} {p : PortId} {c : PortSettings}
    (old : (s.port p).settings.mode = .off) (on : c.mode ≠ .off) :
    s.applySettings p c = (s.setPort p ((s.port p).configure c)).openPort p := by
  unfold State.applySettings
  cases h : c.mode <;> simp only [old]
  exact absurd h on

theorem State.applySettings_stays {s : State} {p : PortId} {c : PortSettings}
    (old : (s.port p).settings.mode ≠ .off) (on : c.mode ≠ .off) :
    s.applySettings p c = (s.setPort p ((s.port p).configure c)).reconfigure p := by
  unfold State.applySettings
  cases h : c.mode <;> cases h' : (s.port p).settings.mode <;> simp only
  all_goals first | exact absurd h on | exact absurd h' old

theorem State.applySettings_closes {s : State} {p : PortId} {c : PortSettings}
    (old : (s.port p).settings.mode ≠ .off) (off : c.mode = .off) :
    s.applySettings p c = (s.setPort p ((s.port p).configure c)).closePort p := by
  unfold State.applySettings
  cases h' : (s.port p).settings.mode <;> simp only [off]
  exact absurd h' old

theorem Port.configure_tracker (x : Port) (c : PortSettings) : (x.configure c).tracker =
    if c.mode = .shared then (if x.settings.mode = .shared then x.tracker else some .free) else none := by
  unfold Port.configure
  cases c.mode <;> cases x.settings.mode <;> rfl

/-- A port and its notice as an entry into a state leaves them; only one into DETACHED asks. -/
theorem State.enterAsking_leaves (s : State) (p : PortId) (x : PortState) : ∃ q n,
    s.enterAsking p x = (s.setReports q).setPort p { (s.port p).enter x with notice := n } ∧
    (x = .detached → NoticeAsked (.port p) (.port p .detached s.time) (s.port p).settings.noticeEn
      s.reports (s.port p).notice q n) ∧
    (x ≠ .detached → q = s.reports ∧ n = (s.port p).notice) := by
  by_cases detached : x = .detached
  · subst detached
    obtain ⟨q, n, asked, eq⟩ := (s.setPortState p .detached).askNotice_port p
    rw [State.setPortState_port_same] at asked eq
    rw [State.setPortState_reports, State.setPortState_time] at asked
    refine ⟨q, n, ?_, fun _ => asked, fun h => absurd rfl h⟩
    rw [State.enterAsking, if_pos rfl, State.enterDetached, eq]
    cases p <;> rfl
  · refine ⟨s.reports, (s.port p).notice, ?_, fun h => absurd h detached, fun _ => ⟨rfl, rfl⟩⟩
    rw [State.enterAsking, if_neg detached]
    cases p <;> rfl

/-- What an accepted CONFIG_PORT leaves of the port it names: its settings, state, tracker and notice. -/
structure Port.Configured (x y : Port) (c : PortSettings) (after : PortState) : Prop where
  settings : y.settings = c
  state    : y.state = after
  drive    : y.drive = Drive.released
  present  : y.present = x.present
  ready    : y.ready = x.ready
  tracker  : y.tracker = if c.mode = .shared
    then (if x.settings.mode = .shared then x.tracker else some .free) else none

/-- A state in which a port drives neither line. -/
def PortState.AtRest (x : PortState) : Prop := x.drive = Drive.released

theorem checkedState_atRest (l : Levels) (o : Origin) : (checkedState l o).AtRest := by
  unfold checkedState
  split <;> rfl

theorem Port.configured_enter (x : Port) (c : PortSettings) {z : PortState} (n : NoticeState)
    (rest : z.AtRest) : x.Configured { (x.configure c).enter z with notice := n } c z :=
  ⟨rfl, rfl, rest, rfl, rfl, x.configure_tracker c⟩

theorem State.openState_atRest (s : State) (p : PortId) : (s.openState p).AtRest := by
  unfold State.openState
  split
  · exact checkedState_atRest _ _
  · split
    · split
      · exact checkedState_atRest _ _
      · rfl
    · rfl

theorem Port.reconfigured_atRest {x : Port} {l : Levels} {z : PortState}
    (h : x.reconfigured l = some z) : z.AtRest := by
  unfold Port.reconfigured at h
  split at h
  · cases h
    exact checkedState_atRest _ _
  · cases h
    exact checkedState_atRest _ _
  · split at h
    · cases h
      exact checkedState_atRest _ _
    · cases h
  · split at h <;> cases h
    rfl
  · split at h <;> cases h
    rfl
  · cases h

/-- New settings take only a port to DETACHED that is not there. -/
theorem Port.ne_detached_of_reconfigured {x : Port} {l : Levels} (h : x.reconfigured l = some .detached) :
    x.state ≠ .detached := by
  intro detached
  cases presence : x.settings.presence <;> simp only [Port.reconfigured, presence, detached] at h
  · exact checkedState_ne_detached _ _ (Option.some.inj h)
  · cases h

/-- The base of an accepted CONFIG_PORT: its settings stand, and port B's pins are taken where port B
comes into service. -/
structure State.SettingsStand (s w : State) (p : PortId) (c : PortSettings) (takes : Prop) : Prop where
  port    : w.port p = (s.port p).configure c
  ports   : ∀ q, q ≠ p → w.port q = s.port q
  pins    : w.linesOf p = s.linesOf p
  config  : ∀ n, (w.line n).config = (s.line n).config ∧ (w.line n).capture = (s.line n).capture ∧
    (w.line n).notice = (s.line n).notice
  others  : ∀ n, ¬takes ∨ (n ≠ 6 ∧ n ≠ 7) → w.line n = s.line n
  cleared : takes → ∀ n, n < s.lines.length → n = 6 ∨ n = 7 → (w.line n).sampler = Sampler.cleared
  taken   : takes → w.tick = { s.tick with edges := s.tick.edges.filter (fun n => decide (n < 6)) }
  kept    : ¬takes → w.tick = s.tick
  reports : w.reports = s.reports
  link    : w.link = s.link
  slots   : w.slots = s.slots
  pool    : w.pool = s.pool
  time    : w.time = s.time

theorem State.configured_stands (s : State) (p : PortId) (c : PortSettings) {takes : Prop}
    (no : ¬takes) : s.SettingsStand (s.setPort p ((s.port p).configure c)) p c takes where
  port := s.setPort_port_same p _
  ports := fun q h => s.setPort_port_other _ h
  pins := State.linesOf_setPort _ _ _ _
  config := fun n => by rw [State.line_setPort]; exact ⟨rfl, rfl, rfl⟩
  others := fun n _ => State.line_setPort _ _ _ _
  cleared := fun h => absurd h no
  taken := fun h => absurd h no
  kept := fun _ => State.setPort_tick _ _ _
  reports := State.setPort_reports _ _ _
  link := State.setPort_link _ _ _
  slots := State.setPort_slots _ _ _
  pool := State.setPort_pool _ _ _
  time := State.setPort_time _ _ _

theorem State.taken_stands (s : State) (p : PortId) (c : PortSettings) {takes : Prop} (yes : takes) :
    s.SettingsStand (s.setPort p ((s.port p).configure c)).takeSharedPins p c takes := by
  have t := (s.setPort p ((s.port p).configure c)).takeSharedPins_taken
  have base := s.configured_stands p c (not_false : ¬False)
  exact {
    port := (t.ports p).trans base.port
    ports := fun q h => (t.ports q).trans (base.ports q h)
    pins := (t.lines p).trans base.pins
    config := fun n => by
      obtain ⟨hc, hr, hn⟩ := t.config n
      obtain ⟨hc', hr', hn'⟩ := base.config n
      exact ⟨hc.trans hc', hr.trans hr', hn.trans hn'⟩
    others := fun n h => (t.others n (h.resolve_left (not_not.2 yes))).trans (base.others n (.inl not_false))
    cleared := fun _ n hn => t.cleared n (by rw [State.setPort_lines]; exact hn)
    taken := fun _ => by rw [t.tick, State.setPort_tick]
    kept := fun h => absurd yes h
    reports := t.reports.trans base.reports
    link := t.link.trans base.link
    slots := t.slots.trans base.slots
    pool := t.pool.trans base.pool
    time := t.time.trans base.time }

/-- What an accepted CONFIG_PORT that leaves its port OFF or in service comes to: the port moved from
the base, its notice asked for or not. -/
structure State.PortMoved (w t : State) (p : PortId) (x y : Port) (c : PortSettings)
    (after : PortState) (asks : Prop) : Prop where
  configured : x.Configured y c after
  eq         : ∃ q, t = (w.setReports q).setPort p y ∧
    (asks → NoticeAsked (.port p) (.port p .detached w.time) c.noticeEn w.reports x.notice q y.notice) ∧
    (¬asks → q = w.reports ∧ y.notice = x.notice)

/-- The entry into a state from the base; into DETACHED it asks. -/
theorem State.SettingsStand.enters {s w : State} {p : PortId} {c : PortSettings} {takes asks : Prop}
    {z : PortState} (h : s.SettingsStand w p c takes) (rest : z.AtRest) (when_ : asks ↔ z = .detached) :
    ∃ y, w.PortMoved (w.enterAsking p z) p (s.port p) y c z asks := by
  obtain ⟨q, n, eq, asking, silent⟩ := w.enterAsking_leaves p z
  rw [h.port] at eq asking silent
  exact ⟨_, Port.configured_enter _ c n rest, q, eq, fun a => asking (when_.1 a),
    fun a => silent (fun e => a (when_.2 e))⟩

/-- A port that stays where it is. -/
theorem State.SettingsStand.stays {s w : State} {p : PortId} {c : PortSettings} {takes asks : Prop}
    (h : s.SettingsStand w p c takes) (rest : (s.port p).drive = Drive.released) (silent : ¬asks) :
    ∃ y, w.PortMoved w p (s.port p) y c (s.port p).state asks :=
  ⟨(s.port p).configure c, ⟨rfl, rfl, rest, rfl, rfl, (s.port p).configure_tracker c⟩, w.reports,
    by rw [← h.port]; exact (State.setPort_port_self w p).symm, fun a => absurd a silent,
    fun _ => ⟨rfl, rfl⟩⟩

end Sys2Proof.Machine
end

section
/-! SUPPORT. An accepted CONFIG_PORT as a whole (R108 to R110). -/

namespace Sys2Proof.Machine

/-- The state a CONFIG_PORT leaves a port in, with `x` the port before, `l` the levels read. -/
def Port.afterConfig (x : Port) (c : PortSettings) (l : Levels) : PortState :=
  if c.mode = .off then x.state
  else if x.settings.mode = .off then
    match c.presence with
    | .ignore => checkedState l .enable
    | .require =>
      if x.present then (if c.settleTime = 0 then checkedState l .settle else .settling 0) else .detached
  else match c.presence, x.state with
    | .ignore, .detached => checkedState l .enable
    | .ignore, .settling _ => checkedState l .enable
    | .require, .settling n => if c.settleTime.toNat ≤ n then checkedState l .settle else .settling n
    | .require, .idle => if x.present then .idle else .detached
    | .require, .stuck n => if x.present then .stuck n else .detached
    | _, y => y

/-- Whether it asks for a notice: it does where it takes the port to DETACHED (log 14, log 25). -/
def Port.configAsks (x : Port) (c : PortSettings) (l : Levels) : Prop :=
  x.afterConfig c l = .detached ∧ ((x.settings.mode = .off ∧ c.mode ≠ .off) ∨ x.state ≠ .detached)

theorem State.openState_eq_afterConfig {s w : State} {p : PortId} {c : PortSettings} {takes : Prop}
    (h : s.SettingsStand w p c takes) (old : (s.port p).settings.mode = .off) (on : c.mode ≠ .off) :
    w.openState p = (s.port p).afterConfig c (s.linesOf p) := by
  rw [Port.afterConfig, if_neg on, if_pos old, State.openState, h.port, h.pins]
  cases presence : c.presence with
  | ignore => simp only [Port.configure, presence]
  | require =>
    simp only [Port.configure, presence]
    rfl

/-- A port in service moves where `reconfigured` says, and stays elsewhere. -/
theorem Port.reconfigured_eq (x : Port) {c : PortSettings} (l : Levels)
    (old : x.settings.mode ≠ .off) (on : c.mode ≠ .off) :
    ((x.configure c).reconfigured l).getD x.state = x.afterConfig c l := by
  rw [Port.afterConfig, if_neg on, if_neg old, Port.reconfigured]
  cases presence : c.presence <;> cases state : x.state <;>
    simp only [Port.configure, presence, state, Option.getD_some, Option.getD_none]
  all_goals split <;> rfl

theorem State.applySettings_moved {s : State} {p : PortId} {c : PortSettings}
    (rest : (s.port p).drive = Drive.released)
    (closed : c.mode = .off → (s.port p).settings.mode = .off) :
    ∃ w y, s.SettingsStand w p c (p = .b ∧ ((s.port p).settings.mode = .off ∧ c.mode ≠ .off)) ∧
      w.PortMoved (s.applySettings p c) p (s.port p) y c ((s.port p).afterConfig c (s.linesOf p))
        ((s.port p).configAsks c (s.linesOf p)) := by
  by_cases off : c.mode = .off
  · have after : (s.port p).afterConfig c (s.linesOf p) = (s.port p).state := if_pos off
    have base := s.configured_stands p c (takes := p = .b ∧ ((s.port p).settings.mode = .off ∧ c.mode ≠ .off))
      (fun h => h.2.2 off)
    have silent : ¬(s.port p).configAsks c (s.linesOf p) := fun h =>
      h.2.elim (fun o => o.2 off) (fun n => n (after ▸ h.1))
    rw [State.applySettings_off (closed off) off, after]
    exact ⟨_, (base.stays rest silent).choose, base, (base.stays rest silent).choose_spec⟩
  · by_cases old : (s.port p).settings.mode = .off
    · have base : s.SettingsStand (if p = .b then (s.setPort p ((s.port p).configure c)).takeSharedPins
          else s.setPort p ((s.port p).configure c)) p c
          (p = .b ∧ ((s.port p).settings.mode = .off ∧ c.mode ≠ .off)) := by
        by_cases b : p = .b
        · rw [if_pos b]
          exact s.taken_stands p c ⟨b, old, off⟩
        · rw [if_neg b]
          exact s.configured_stands p c (fun h => b h.1)
      have asking : (s.port p).configAsks c (s.linesOf p) ↔
          (s.port p).afterConfig c (s.linesOf p) = .detached := ⟨fun h => h.1, fun h => ⟨h, .inl ⟨old, off⟩⟩⟩
      rw [State.applySettings_opens old off, State.openPort_eq]
      rw [← State.openState_eq_afterConfig base old off] at asking ⊢
      obtain ⟨y, moved⟩ := base.enters (State.openState_atRest _ _) asking
      exact ⟨_, y, base, moved⟩
    · have base := s.configured_stands p c
        (takes := p = .b ∧ ((s.port p).settings.mode = .off ∧ c.mode ≠ .off)) (fun h => old h.2.1)
      have after := (s.port p).reconfigured_eq (s.linesOf p) old off
      have asking : (s.port p).configAsks c (s.linesOf p) ↔
          (s.port p).afterConfig c (s.linesOf p) = .detached ∧ (s.port p).state ≠ .detached :=
        ⟨fun h => ⟨h.1, h.2.resolve_left (fun o => old o.1)⟩, fun h => ⟨h.1, .inr h.2⟩⟩
      rw [State.applySettings_stays old off, State.reconfigure_eq, base.port, base.pins]
      cases goes : ((s.port p).configure c).reconfigured (s.linesOf p) with
      | none =>
        rw [goes] at after
        have stays : (s.port p).state = (s.port p).afterConfig c (s.linesOf p) := after
        obtain ⟨y, moved⟩ := base.stays rest (fun h => (asking.1 h).2 (stays.trans (asking.1 h).1))
        rw [stays] at moved
        exact ⟨_, y, base, moved⟩
      | some z =>
        rw [goes] at after
        have there : z = (s.port p).afterConfig c (s.linesOf p) := after
        rw [← there] at asking ⊢
        have asking' := asking.trans ⟨fun h => h.1, fun (h : z = .detached) =>
          ⟨h, Port.ne_detached_of_reconfigured (x := (s.port p).configure c) (h ▸ goes)⟩⟩
        obtain ⟨y, moved⟩ := base.enters (Port.reconfigured_atRest goes) asking'
        exact ⟨_, y, base, moved⟩

theorem configPort_guard {x : PortState} (run : ∀ r, x ≠ .running r) (recovery : ∀ o n, x ≠ .recovering o n) :
    ¬x.busy = true := fun busy =>
  ((PortState.busy_iff x).1 busy).elim (fun ⟨r, e⟩ => run r e) (fun ⟨o, n, e⟩ => recovery o n e)

/-- An accepted CONFIG_PORT carries out its settings on the state whose lines were read. -/
theorem exec_configPort_accepted {s : State} {r : Request} {l : Levels} {p : PortId} {c : PortSettings}
    (h : s.MayCarryOut .configPort r) (payload : r.payload = c.payload p) (stretch : c.stretchLimit ≠ 0)
    (run : ∀ x, (s.port p).state ≠ .running x) (recovery : ∀ o n, (s.port p).state ≠ .recovering o n)
    (pins : p = .b → c.mode ≠ .off → s.sharedLineWatches = false) :
    exec (.configPort l) s = .next (((s.emptyHand.readLines p l).applySettings p c).answer r
      [0x00, (((s.emptyHand.readLines p l).applySettings p c).port p).state.shown.code]) := by
  refine exec_configPort_of h (by rw [payload]; rfl) ?_
  rw [payload]
  refine configPortEffect_accepted (portSettingsOf_payload p stretch) ?_ pins
  have port : s.emptyHand.port p = s.port p := by cases p <;> rfl
  rw [port]
  exact configPort_guard run recovery

end Sys2Proof.Machine

open Sys2Proof Sys2Proof.Machine

/-- Settles O36: `applySettings_moved` on the state whose lines were read. -/
theorem configPortMovesThePort : Obligations.ConfigPortMovesThePort := by
  unfold Obligations.ConfigPortMovesThePort
  intro s r l p c h payload stretch run recovery drives watches closed x opens checked settled after asks
  have port : (s.emptyHand.readLines p l).port p = s.port p := by cases p <;> rfl
  have lines : (s.emptyHand.readLines p l).linesOf p = l := State.linesOf_readLines _ _ _
  have rest : (s.port p).drive = Drive.released :=
    drives p (fun r e => absurd e (run r)) (fun o n e => absurd e (recovery o n))
  have pins : p = .b → c.mode ≠ .off → s.sharedLineWatches = false := by
    intro b on
    obtain ⟨six, seven⟩ := watches b on
    exact Bool.eq_false_iff.2 fun w => ((State.sharedLineWatches_iff s).1 w).elim (· six) (· seven)
  obtain ⟨w, y, base, moved⟩ := State.applySettings_moved (s := s.emptyHand.readLines p l) (p := p) (c := c)
    (by rw [port]; exact rest) (by rw [port]; exact closed)
  rw [port, lines] at moved
  rw [port] at base
  have after_eq : x.afterConfig c l = after := rfl
  have asks_iff : x.configAsks c l ↔ asks := Iff.rfl
  obtain ⟨q, eq, asking, silent⟩ := moved.eq
  have accepted := exec_configPort_accepted (l := l) h payload stretch run recovery pins
  rw [eq, State.setPort_port_same, moved.configured.state] at accepted
  rw [after_eq] at accepted
  obtain ⟨settings, state, drive, present, ready, tracker⟩ := moved.configured
  have there : (((w.setReports q).setPort p y).answer r [0x00, after.shown.code]).port p = y :=
    State.setPort_port_same _ _ _
  have other (q' : PortId) (h : q' ≠ p) :
      (((w.setReports q).setPort p y).answer r [0x00, after.shown.code]).port q' = s.port q' :=
    (State.setPort_port_other _ _ h).trans ((base.ports q' h).trans (by cases p <;> cases q' <;> rfl))
  have line (n : Nat) : (((w.setReports q).setPort p y).answer r [0x00, after.shown.code]).line n =
      w.line n := State.line_setPort _ _ _ _
  have sameLine (n : Nat) : (s.emptyHand.readLines p l).line n = s.line n := by cases p <;> rfl
  have sameLines : (s.emptyHand.readLines p l).lines = s.lines := by cases p <;> rfl
  refine ⟨_, accepted, ?_, ?_, ?_, ?_, ?_, ?_, other, ?_, fun a => ?_, fun a => ?_, fun n => ?_,
    fun b o n hn at_ => ?_, fun n h => ?_, ?_, ?_, ?_, ?_⟩
  · rw [there, settings]
  · rw [there, state, after_eq]
  · rw [there, drive]
  · rw [there, present]
  · rw [there, ready]
  · rw [there, tracker]
  · have link : ((w.setReports q).setPort p y).link = s.emptyHand.link := by
      rw [State.setPort_link, State.setReports_link, base.link]
      cases p <;> rfl
    show ({ ((w.setReports q).setPort p y).link with
      tx := ((w.setReports q).setPort p y).link.tx ++ [_] } : Link) = _
    rw [link]
    rfl
  · have asked := asking (asks_iff.2 a)
    rw [base.reports, base.time] at asked
    rw [there]
    cases p <;> exact asked
  · obtain ⟨queue, notice⟩ := silent (fun c => a (asks_iff.1 c))
    rw [there]
    refine ⟨?_, notice⟩
    show ((w.setReports q).setPort p y).reports = s.reports
    rw [State.setPort_reports, queue, base.reports]
    cases p <;> rfl
  · rw [line, ← sameLine n]
    exact base.config n
  · rw [line]
    exact base.cleared ⟨b, o⟩ n (by rw [sameLines]; exact hn) at_
  · rw [line, ← sameLine n]
    refine base.others n ?_
    rcases h with a | closed | between
    · exact .inl fun t => by rw [a] at t; exact absurd t.1 (by decide)
    · exact .inl fun t => closed t.2
    · exact .inr between
  · show ((w.setReports q).setPort p y).tick = _
    rw [State.setPort_tick, State.setReports_tick]
    split
    · next takes =>
      rw [base.taken takes]
      cases p <;> rfl
    · next takes =>
      rw [base.kept takes]
      cases p <;> rfl
  · show ((w.setReports q).setPort p y).slots = _
    rw [State.setPort_slots, State.setReports_slots, base.slots]
    cases p <;> rfl
  · show ((w.setReports q).setPort p y).pool = _
    rw [State.setPort_pool, State.setReports_pool, base.pool]
    cases p <;> rfl
  · show ((w.setReports q).setPort p y).time = _
    rw [State.setPort_time, State.setReports_time, base.time]
    cases p <;> rfl

end

section
/-! SUPPORT. What an operation on a job queues (R150 to R154): its own report, and the oldest owed
notices that a return of room lets in. -/

namespace Sys2Proof.Machine

/-! ### Reports queued and notices let in -/

/-- From `s` to `t` the reports have been queued, the notices among them are those of the `k` oldest owed
sources, in their order, and the notice states have moved with them alone. -/
structure State.Queues (s t : State) (reports : List Report) (k : Nat) : Prop where
  queued  : t.reports.queued = s.reports.queued ++ reports
  sources : reports.filterMap Report.source = s.reports.owed.take k
  owed    : t.reports.owed = s.reports.owed.drop k
  count   : t.lines.length = s.lines.length
  lines   : ∀ n, n < s.lines.length → t.line n = { s.line n with
    notice := if Source.line n ∈ s.reports.owed.take k then .queued else (s.line n).notice }
  ports   : ∀ p, (t.port p).notice =
    if Source.port p ∈ s.reports.owed.take k then .queued else (s.port p).notice

/-- An operation that moves no report, owed source or notice state. -/
theorem State.Queues.of_same {s t : State} (queued : t.reports.queued = s.reports.queued)
    (owed : t.reports.owed = s.reports.owed) (lines : t.lines = s.lines)
    (ports : ∀ p, (t.port p).notice = (s.port p).notice) : s.Queues t [] 0 where
  queued := by rw [queued, List.append_nil]
  sources := rfl
  owed := owed
  count := by rw [lines]
  lines := fun n _ => by simp only [State.line, lines, List.take_zero, List.not_mem_nil, if_false]
  ports := fun p => by simp only [ports, List.take_zero, List.not_mem_nil, if_false]

theorem State.Queues.trans {s t u : State} {a b : List Report} {k l : Nat} (h : s.Queues t a k)
    (h' : t.Queues u b l) : s.Queues u (a ++ b) (k + l) := by
  have owed : s.reports.owed.take (k + l) = s.reports.owed.take k ++ t.reports.owed.take l := by
    rw [List.take_add, h.owed]
  refine ⟨by rw [h'.queued, h.queued, List.append_assoc], ?_, ?_, h'.count.trans h.count, fun n hn => ?_,
    fun p => ?_⟩
  · rw [List.filterMap_append, h.sources, h'.sources, owed]
  · rw [h'.owed, h.owed, List.drop_drop]
  · rw [h'.lines n (by rw [h.count]; exact hn), h.lines n hn, owed]
    simp only [List.mem_append]
    by_cases now : Source.line n ∈ t.reports.owed.take l <;>
      by_cases before : Source.line n ∈ s.reports.owed.take k <;> simp [now, before]
  · rw [h'.ports p, h.ports p, owed]
    simp only [List.mem_append]
    by_cases now : Source.port p ∈ t.reports.owed.take l <;>
      by_cases before : Source.port p ∈ s.reports.owed.take k <;> simp [now, before]

/-- A job report alone. -/
theorem State.consume_queues (s : State) (r : JobReport) : s.Queues (s.consume r) [.job r] 0 where
  queued := rfl
  sources := rfl
  owed := rfl
  count := rfl
  lines := fun n _ => by simp [State.consume]
  ports := fun p => by simp [State.consume]

/-- Notices alone, none without an owed source. -/
theorem notices_eq_nil {s t : State} {notices : List Report} {k : Nat} (h : s.Queues t notices k)
    (sources : ∀ x ∈ notices, x.source ≠ none) (owed : s.reports.owed = []) : notices = [] := by
  have none : notices.filterMap Report.source = [] := by rw [h.sources, owed, List.take_nil]
  rw [List.filterMap_eq_nil_iff] at none
  exact List.eq_nil_iff_forall_not_mem.2 fun x hx => sources x hx (none x hx)

theorem Source.of_noticeReport (s : State) (src : Source) : (s.noticeReport src).source = some src := by
  cases src <;> rfl

/-- The drain queues the notices of the oldest owed, and nothing else. -/
theorem State.drain_queues (s : State) : ∃ notices k, s.Queues s.drain notices k ∧
    ∀ x ∈ notices, x.source ≠ none := by
  obtain ⟨drained, owed⟩ := drainOwed_drained s.reports.owed s
  refine ⟨(s.reports.owed.take (min s.reports.owed.length s.reports.room)).map s.noticeReport,
    min s.reports.owed.length s.reports.room, ⟨?_, ?_, owed, s.drain_moved.count, drained.lines,
    fun p => ?_⟩, fun x hx => ?_⟩
  · have reports : s.drain.reports = _ := drained.reports
    rw [reports]
    exact foldl_push_queued _ _
  · rw [List.filterMap_map]
    have sources : Report.source ∘ s.noticeReport = some := funext (Source.of_noticeReport s)
    rw [sources, List.filterMap_some]
  · have port : s.drain.port p = _ := drained.ports p
    rw [port]
  · obtain ⟨src, -, rfl⟩ := List.mem_map.1 hx
    rw [Source.of_noticeReport]
    exact nofun

theorem State.giveBack_queues (s : State) : ∃ notices k, s.Queues s.giveBack notices k ∧
    ∀ x ∈ notices, x.source ≠ none := by
  obtain ⟨notices, k, h, sources⟩ :=
    (s.setReports { s.reports with reserved := s.reports.reserved - 1 }).drain_queues
  refine ⟨notices, k, ?_, sources⟩
  have free : s.Queues (s.setReports { s.reports with reserved := s.reports.reserved - 1 }) [] 0 :=
    State.Queues.of_same rfl rfl rfl (fun p => by simp)
  have both := free.trans h
  rw [List.nil_append, Nat.zero_add] at both
  exact both

/-- Operations in a row that queue notices alone. -/
theorem State.Queues.andThen {s t u : State} (h : ∃ notices k, s.Queues t notices k ∧
      ∀ x ∈ notices, x.source ≠ none)
    (h' : ∃ notices k, t.Queues u notices k ∧ ∀ x ∈ notices, x.source ≠ none) :
    ∃ notices k, s.Queues u notices k ∧ ∀ x ∈ notices, x.source ≠ none := by
  obtain ⟨a, k, ha, sa⟩ := h
  obtain ⟨b, l, hb, sb⟩ := h'
  exact ⟨a ++ b, k + l, ha.trans hb, fun x hx => (List.mem_append.1 hx).elim (sa x) (sb x)⟩

theorem State.Queues.silent {s t : State} (h : s.Queues t [] 0) : ∃ notices k, s.Queues t notices k ∧
    ∀ x ∈ notices, x.source ≠ none := ⟨[], 0, h, nofun⟩

theorem State.setJob_queues (s : State) (slot : Nat) (j : Job) : s.Queues (s.setJob slot j) [] 0 :=
  State.Queues.of_same rfl rfl rfl (fun p => by simp)

theorem State.giveBackStanding_queues (s : State) (slot : Nat) : ∃ notices k,
    s.Queues (s.giveBackStanding slot) notices k ∧ ∀ x ∈ notices, x.source ≠ none := by
  have none : s.Queues s [] 0 := State.Queues.of_same rfl rfl rfl (fun _ => rfl)
  unfold State.giveBackStanding
  split
  · split
    · exact State.Queues.andThen (s.setJob_queues _ _).silent (State.giveBack_queues _)
    · exact none.silent
  · exact none.silent

theorem State.giveBackRun_queues (s : State) (slot : Nat) : ∃ notices k,
    s.Queues (s.giveBackRun slot) notices k ∧ ∀ x ∈ notices, x.source ≠ none := by
  have none : s.Queues s [] 0 := State.Queues.of_same rfl rfl rfl (fun _ => rfl)
  unfold State.giveBackRun
  split
  · split
    · exact State.Queues.andThen (s.setJob_queues _ _).silent (State.giveBack_queues _)
    · exact none.silent
  · exact none.silent

theorem State.offList_queues (s : State) (slot : Nat) (j : Job) : s.Queues (s.offList slot j) [] 0 := by
  unfold State.offList
  split
  · next p _ =>
    refine State.Queues.of_same (by simp [State.leaveReady]) (by simp [State.leaveReady])
      (by simp [State.leaveReady]) (fun q => ?_)
    by_cases h : q = p
    · subst h
      simp [State.leaveReady]
    · rw [State.leaveReady, State.setPort_port_other s _ h]
  · exact State.Queues.of_same rfl rfl rfl (fun _ => rfl)

/-- A freed job queues no report: only the room that comes back lets owed notices in. -/
theorem State.freeJob_queues {s : State} {slot : Nat} {j : Job} (hj : s.job? slot = some j) :
    ∃ notices k, s.Queues (s.freeJob slot) notices k ∧ ∀ x ∈ notices, x.source ≠ none := by
  rw [State.freeJob_of hj]
  have clear (u : State) : u.Queues (u.clearSlot slot) [] 0 :=
    State.Queues.of_same rfl rfl rfl (fun p => by simp)
  exact State.Queues.andThen (State.Queues.andThen (State.Queues.andThen
    (s.offList_queues slot j).silent (State.giveBackStanding_queues _ _)) (State.giveBackRun_queues _ _))
    (clear _).silent

/-- A job report, then a freed job. -/
theorem State.queueJobReport_queues {s : State} {slot : Nat} {j : Job} (r : JobReport)
    (hj : s.job? slot = some j) (res : j.standing = true ∨ j.runRes = true) :
    s.Queues (s.queueJobReport slot r) [.job r] 0 := by
  have spends : (j.runRes || j.standing) = true := by
    rcases res with h | h <;> simp [h]
  rw [State.queueJobReport_of r hj, if_pos spends]
  exact (s.setJob_queues slot _).trans ((s.setJob slot j.reported).consume_queues r)

/-! ### A job that leaves -/

theorem State.setJob_setJob (s : State) (slot : Nat) (j k : Job) :
    (s.setJob slot j).setJob slot k = s.setJob slot k := by
  simp [State.setJob]

theorem State.clearSlot_setJob (s : State) (slot : Nat) (j : Job) :
    (s.setJob slot j).clearSlot slot = s.clearSlot slot := by
  simp [State.setJob, State.clearSlot]

/-- Freeing a job that holds no reservation any more takes it off its list and empties its slot. -/
theorem State.freeJob_spent {s : State} {slot : Nat} {j : Job} (hj : s.job? slot = some j)
    (standing : j.standing = false) (runRes : j.runRes = false) :
    s.freeJob slot = (s.offList slot j).clearSlot slot := by
  have job : (s.offList slot j).job? slot = some j := by rw [State.job_offList, hj]
  have first : (s.offList slot j).giveBackStanding slot = s.offList slot j := by
    simp [State.giveBackStanding, job, standing]
  have second : (s.offList slot j).giveBackRun slot = s.offList slot j := by
    simp [State.giveBackRun, job, runRes]
  rw [State.freeJob_of hj, first, second]

theorem State.offList_of_notMem {s : State} {slot : Nat} {j : Job}
    (h : ∀ p, j.port = some p → slot ∉ (s.port p).ready) : s.offList slot j = s := by
  unfold State.offList
  split
  · next p hp => exact State.leaveReady_of_notMem (h p hp)
  · rfl

/-! ### The evaluation's commands -/

section
variable {s : State} {tag : Tag} {slot : Nat} {rest : List Nat} {j : Job}

theorem State.verdict_of (hj : s.job? slot = some j) : s.verdict slot = j.verdict s.time := by
  simp only [State.verdict, hj]

theorem State.finishEventIfBegun_of (edging : s.tick.edging = false) : s.finishEventIfBegun = s := by
  simp only [State.finishEventIfBegun, edging]
  rfl

theorem State.nextEval_of (evals : s.tick.evals = slot :: rest) (hj : s.job? slot = some j)
    (due : j.verdict s.time ≠ .stands) : s.nextEval j.tag = some (slot, rest) :=
  State.nextEval_of_due evals hj (by rw [State.verdict_of hj]; exact due)

theorem exec_deadlineExpiry_due (edging : s.tick.edging = false) (evals : s.tick.evals = slot :: rest)
    (hj : s.job? slot = some j) (v : j.verdict s.time = .expires) :
    exec (.deadlineExpiry j.tag) s = .next ((s.endWithoutRun slot .expired).setEvals rest) := by
  show execDeadlineExpiry j.tag s = _
  simp only [execDeadlineExpiry, State.finishEventIfBegun_of edging,
    State.nextEval_of evals hj (by rw [v]; exact nofun), State.verdict_of hj, v]

theorem exec_atTrigger_due {t : Time} (edging : s.tick.edging = false)
    (evals : s.tick.evals = slot :: rest) (hj : s.job? slot = some j) (v : j.verdict s.time = .fires t) :
    exec (.atTrigger j.tag) s = .next ((s.fireAt slot t).setEvals rest) := by
  show execAtTrigger j.tag s = _
  simp only [execAtTrigger, State.finishEventIfBegun_of edging,
    State.nextEval_of evals hj (by rw [v]; exact nofun), State.verdict_of hj, v]

theorem exec_everyMatch_due (edging : s.tick.edging = false) (evals : s.tick.evals = slot :: rest)
    (hj : s.job? slot = some j) (v : j.verdict s.time = .hits) :
    exec (.everyMatch j.tag) s = .next ((s.matchEvery slot).setEvals rest) := by
  show execEveryMatch j.tag s = _
  simp only [execEveryMatch, State.finishEventIfBegun_of edging,
    State.nextEval_of evals hj (by rw [v]; exact nofun), State.verdict_of hj, v]

theorem exec_deadlineExpiry_of (h : s.Evaluates tag slot rest j) (v : j.verdict s.time = .expires) :
    exec (.deadlineExpiry tag) s = .next ((s.endWithoutRun slot .expired).setEvals rest) := by
  obtain ⟨edging, -, evals, hj, rfl⟩ := h
  exact exec_deadlineExpiry_due edging evals hj v

theorem exec_atTrigger_of {t : Time} (h : s.Evaluates tag slot rest j)
    (v : j.verdict s.time = .fires t) :
    exec (.atTrigger tag) s = .next ((s.fireAt slot t).setEvals rest) := by
  obtain ⟨edging, -, evals, hj, rfl⟩ := h
  exact exec_atTrigger_due edging evals hj v

theorem exec_everyMatch_of (h : s.Evaluates tag slot rest j) (v : j.verdict s.time = .hits) :
    exec (.everyMatch tag) s = .next ((s.matchEvery slot).setEvals rest) := by
  obtain ⟨edging, -, evals, hj, rfl⟩ := h
  exact exec_everyMatch_due edging evals hj v

end

/-- The expiry test of a job that its deadline has not ended. -/
theorem Job.not_expires {j : Job} {now : Time} (h : ∀ d, j.deadline = some d → now.toNat ≤ d.toNat) :
    j.expires now = false := by
  refine Bool.eq_false_iff.2 fun e => ?_
  obtain ⟨-, d, hd, late⟩ := (Job.expires_iff j now).1 e
  exact absurd (h d hd) (by omega)

theorem Job.verdict_expires {j : Job} {now : Time} (h : j.expires now = true) :
    j.verdict now = .expires := if_pos h

theorem Job.verdict_fires {j : Job} {now t : Time} (alive : j.expires now = false)
    (due : j.atDue now = some t) : j.verdict now = .fires t := by
  rw [Job.verdict, alive, due]
  rfl

theorem Job.verdict_hits {j : Job} {now : Time} (alive : j.expires now = false)
    (notAt : j.atDue now = none) (due : j.everyDue now = true) : j.verdict now = .hits := by
  rw [Job.verdict, alive, notAt, due]
  rfl

theorem Job.verdict_stands {j : Job} {now : Time} (alive : j.expires now = false)
    (notAt : j.atDue now = none) (notEvery : j.everyDue now = false) : j.verdict now = .stands := by
  rw [Job.verdict, alive, notAt, notEvery]
  rfl

theorem Job.atDue_of_every {j : Job} {period phase : BitVec 32} {runs : BitVec 16} (now : Time)
    (h : j.trigger = .every period phase runs) : j.atDue now = none := by
  simp only [Job.atDue, h]

theorem exec_eventTrigger_of {s : State} {tag : Tag} {slot : Nat} {edge : Time}
    {rest : List (Nat × Time)} {j : Job} (evals : s.tick.evals = []) (edges : s.tick.edges = [])
    (triggers : s.tick.triggers = (slot, edge) :: rest) (hj : s.job? slot = some j) (ht : j.tag = tag) :
    exec (.eventTrigger tag) s =
      .next ((s.setTick { s.tick with triggers := rest }).fireEvent (slot, edge)).closeEvents := by
  have named : (s.job? slot).any (fun j => j.tag == tag) = true := by simp [hj, ht]
  show execEventTrigger tag s = _
  simp only [execEventTrigger, State.finishTimeBase_nil evals, edges, triggers, named, if_true]

theorem State.fireEvent_of {s : State} {slot line count : Nat} {j : Job} (edge : Time)
    (hj : s.job? slot = some j) (trigger : j.trigger = .event line count) :
    s.fireEvent (slot, edge) = s.triggerJob slot edge false := by
  have onEvent : (s.job? slot).any Job.onEvent = true := by simp [hj, Job.onEvent, trigger]
  exact if_pos onEvent

end Sys2Proof.Machine
end

section
/-! SUPPORT. The triggers and the expiry of one job (R15, R17, R57 to R63, R77). -/

namespace Sys2Proof.Machine

theorem Job.triggerRetries_single {j : Job} (h : j.recurring = false) : j.triggerRetries = j.retriesLeft := by
  simp [Job.triggerRetries, h]

theorem Job.recurring_of_every {j : Job} {period phase : BitVec 32} {runs : BitVec 16}
    (h : j.trigger = .every period phase runs) : j.recurring = true := by
  simp [Job.recurring, h]

theorem Job.single_of_atTime {j : Job} {t : Time} (h : j.trigger = .atTime t) : j.recurring = false := by
  simp [Job.recurring, h]

theorem Job.single_of_event {j : Job} {line count : Nat} (h : j.trigger = .event line count) :
    j.recurring = false := by
  simp [Job.recurring, h]

theorem Job.triggered_single {j : Job} (t : Time) (late : Bool) (h : j.recurring = false) :
    j.triggered t late = { j with
      state := .ready, run := { RunRecord.cleared with triggerTime := t, late := late } } := by
  simp only [Job.triggered, Job.triggerRetries_single h]
  rfl

/-! ### A marker's completion (R17) -/

/-- The report of a marker's run. -/
def Job.markerReport (j : Job) (t : Time) (late last : Bool) : JobReport :=
  { tag := j.tag, outcome := .done, late := late, last := last, long := false
    runNumber := min (j.runsDone + 1) 65535, missed := j.missed, retriesUsed := 0
    failStep := 0, failByte := 0, triggerTime := t, startTime := t, endTime := t
    marks := [], received := 0, data := [] }

theorem State.readArea_zero (s : State) (j : Job) (off : Nat) : s.readArea j off 0 = [] := rfl

theorem Job.long_eq_false {j : Job} (h : j.readTotal ≤ 48) : j.long = false :=
  decide_eq_false (Nat.not_lt.2 h)

theorem State.runReport_marker (s : State) {j : Job} (t : Time) (late last : Bool)
    (short : j.readTotal ≤ 48) :
    s.runReport (j.completes t late).raised last = j.markerReport t late last := by
  have long : (j.completes t late).raised.long = false := Job.long_eq_false short
  simp only [State.runReport, long, Job.markerReport]
  simp only [Job.completes, Job.raised, RunRecord.marker, RunRecord.triggered, RunRecord.cleared]
  rfl

/-- What the run's end leaves where the report is queued through the one reservation the job holds, and
the job is freed: its slot empty, the reservation spent. -/
theorem State.queued_freed {s : State} {slot : Nat} {j k : Job} (r : JobReport)
    (hj : s.job? slot = some j) (standing : k.standing = true) (runRes : k.runRes = false)
    (port : k.port = none ∨ ∀ p, k.port = some p → slot ∉ (s.port p).ready) :
    ((s.setJob slot k).queueJobReport slot r).freeJob slot = { s with
      slots := s.slots.set slot none
      reports := { s.reports.push (.job r) with reserved := s.reports.reserved - 1 } } := by
  have hk : (s.setJob slot k).job? slot = some k := State.job_setJob_same s k (State.job_lt hj)
  have spends : (k.runRes || k.standing) = true := by rw [runRes, standing]; rfl
  have reported : ((s.setJob slot k).queueJobReport slot r).job? slot = some k.reported := by
    rw [State.job_of_set (State.queueJobReport_slots r hk) (by simpa using State.job_lt hj), if_pos rfl]
  have off : ((s.setJob slot k).queueJobReport slot r).offList slot k.reported =
      (s.setJob slot k).queueJobReport slot r := by
    refine State.offList_of_notMem fun p hp => ?_
    rw [State.queueJobReport_port, State.port_setJob]
    exact port.elim (fun none => absurd (none.symm.trans hp) nofun) (fun h => h p hp)
  rw [State.freeJob_spent reported (by simp only [Job.reported, runRes, Bool.and_false]) rfl, off,
    State.queueJobReport_of r hk, if_pos spends]
  show ({ s with slots := (((s.slots.set slot (some k)).set slot (some k.reported)).set slot none), reports := _ } : State) = _
  rw [List.set_set, List.set_set]
  rfl

/-- A single-shot marker queues its LAST report through its standing reservation and is freed. -/
theorem State.triggerJob_singleMarker {s : State} {slot : Nat} {j : Job} (t : Time) (late : Bool)
    (hj : s.job? slot = some j) (pending : j.state = .pending) (port : j.port = none)
    (short : j.readTotal ≤ 48) (held : j.replyHeld = false) (standing : j.standing = true)
    (runRes : j.runRes = false) (single : j.recurring = false) :
    s.triggerJob slot t late = { s with
      slots := s.slots.set slot none
      reports := { s.reports.push (.job (j.markerReport t late true)) with
        reserved := s.reports.reserved - 1 } } := by
  have hk : (s.setJob slot (j.completes t late)).job? slot = some (j.completes t late) :=
    State.job_setJob_same s _ (State.job_lt hj)
  have notHeld : (j.completes t late).replyHeld = false := held
  have notLong : (j.completes t late).long = false := Job.long_eq_false short
  rw [State.triggerJob_marker t late hj pending port, State.tableRunEnd_single hk single, notHeld,
    if_neg (by decide), State.setJob_setJob, notLong, State.runReport_marker _ t late true short]
  exact State.queued_freed (k := (j.completes t late).runCounted) _ hj standing runRes (.inl port)

end Sys2Proof.Machine

open Sys2Proof Sys2Proof.Machine

/-- Settles O14. -/
theorem atAndEventTriggersMakeTheJobReady : Obligations.AtAndEventTriggersMakeTheJobReady := by
  unfold Obligations.AtAndEventTriggersMakeTheJobReady
  refine ⟨fun s tag slot rest j p t0 h pending trigger port reached alive => ?_,
    fun s tag slot line count edge rest j p evals edges triggers hj ht pending trigger port => ?_⟩
  · have due : j.atDue s.time = some t0 := (Job.atDue_iff j s.time t0).2 ⟨pending, trigger, reached⟩
    rw [exec_atTrigger_of h (Job.verdict_fires (Job.not_expires alive) due)]
    obtain ⟨-, -, -, hj, -⟩ := h
    rw [State.fireAt, State.triggerJob_port _ _ hj pending port,
      Job.triggered_single _ _ (Job.single_of_atTime trigger)]
    cases p <;> rfl
  · rw [exec_eventTrigger_of evals edges triggers hj ht,
      State.fireEvent_of edge (by rw [State.job_setTick]; exact hj) trigger,
      State.triggerJob_port _ _ (by rw [State.job_setTick]; exact hj) pending port,
      Job.triggered_single _ _ (Job.single_of_event trigger)]
    cases p <;> rfl

/-- Settles O15. -/
theorem everyMatchTriggersOrIsMissed : Obligations.EveryMatchTriggersOrIsMissed := by
  unfold Obligations.EveryMatchTriggersOrIsMissed
  intro s tag slot rest j period phase runs h trigger at_ alive
  have notExpired : j.expires s.time = false := by
    rcases alive with active | alive
    · exact Bool.eq_false_iff.2 fun e => by simp [Job.expires, active] at e
    · exact Job.not_expires alive
  have verdict (state : j.state = .pending ∨ j.state = .ready ∨ j.state = .active) :
      j.verdict s.time = .hits :=
    Job.verdict_hits notExpired (Job.atDue_of_every _ trigger)
      ((Job.everyDue_iff j s.time).2 ⟨state, period, phase, runs, trigger, at_⟩)
  have hj : s.job? slot = some j := h.2.2.2.1
  refine ⟨fun p pending port room => ?_, fun missed => ?_⟩
  · rw [exec_everyMatch_of h (verdict (.inl pending))]
    have grants : s.matchEvery slot = (s.grantRun slot).triggerJob slot s.time false := by
      simp [State.matchEvery, hj, pending, room]
    have granted : (s.grantRun slot).job? slot = some { j with runRes := true } := by
      rw [State.grantRun_of hj]
      exact State.job_setJob_same s _ (State.job_lt hj)
    have retries : ({ j with runRes := true } : Job).triggerRetries = j.retries := by
      have recurring : ({ j with runRes := true } : Job).recurring = true := Job.recurring_of_every trigger
      simp only [Job.triggerRetries, recurring, if_true]
    rw [grants, State.triggerJob_port _ _ granted pending port, State.grantRun_of hj]
    simp only [Job.triggered, retries, State.reserve, State.setJob]
    show Host.Outcome.next _ = _
    cases p <;> simp only [State.joinTail, State.setReports, List.set_set] <;> rfl
  · have states : j.state = .pending ∨ j.state = .ready ∨ j.state = .active := by
      rcases missed with h | h | h
      · exact .inr (.inl h)
      · exact .inr (.inr h)
      · exact .inl h.1
    have notGranted : ¬(j.state == .pending && decide (1 ≤ s.reports.room)) = true := by
      rw [Bool.and_eq_true, beq_iff_eq, decide_eq_true_eq]
      rintro ⟨pending, room⟩
      rcases missed with h | h | ⟨-, h⟩
      · rw [pending] at h; cases h
      · rw [pending] at h; cases h
      · omega
    have misses : s.matchEvery slot = s.missRun slot := by
      simp only [State.matchEvery, hj, if_neg notGranted]
    rw [exec_everyMatch_of h (verdict states), misses, State.missRun, State.modifyJob_of _ hj]
    rfl

end

section
/-! SUPPORT. A recurring marker's run (R17, R21), and a job that its deadline ends (R23, R63). -/

namespace Sys2Proof.Machine

theorem BitVec.toNat_ne_zero_iff {w : Nat} (x : BitVec w) : x.toNat ≠ 0 ↔ x ≠ 0 :=
  ⟨fun h e => h (by rw [e]; rfl), fun h e => h (BitVec.eq_of_toNat_eq e)⟩

/-- Whether a recurring job ends at a run's end, condition by condition (R21). -/
theorem Job.endsAt_iff (j : Job) (now : Time) : j.endsAt now = true ↔
    j.run.outcome = some .cancelled ∨ j.ending = true ∨
    (∃ period phase runs, j.trigger = .every period phase runs ∧ runs.toNat ≠ 0 ∧
      j.runsDone = runs.toNat) ∨ ∃ d, j.deadline = some d ∧ d.toNat < now.toNat := by
  have last : (match j.trigger with
        | .every _ _ runs => runs != 0 && j.runsDone == runs.toNat
        | _ => false) = true ↔
      ∃ period phase runs, j.trigger = .every period phase runs ∧ runs.toNat ≠ 0 ∧
        j.runsDone = runs.toNat := by
    cases trigger : j.trigger with
    | every period phase runs =>
      simp [BitVec.toNat_ne_zero_iff]
    | now => simp
    | atTime t => simp
    | event line count => simp
  have late : (j.deadline.any fun d => decide (d.toNat < now.toNat)) = true ↔
      ∃ d, j.deadline = some d ∧ d.toNat < now.toNat := by
    cases j.deadline <;> simp
  simp only [Job.endsAt, Bool.or_eq_true, beq_iff_eq, or_assoc]
  exact or_congr Iff.rfl (or_congr Iff.rfl (or_congr last late))

/-- A recurring marker ends with its ending field or at its last run; its deadline has not come. -/
theorem Job.completes_endsAt {j : Job} {period phase : BitVec 32} {runs : BitVec 16} {now : Time} (t : Time)
    (late : Bool) (trigger : j.trigger = .every period phase runs)
    (alive : ∀ d, j.deadline = some d → now.toNat ≤ d.toNat) :
    (j.completes t late).raised.endsAt now = true ↔
      j.ending = true ∨ (runs.toNat ≠ 0 ∧ min (j.runsDone + 1) 65535 = runs.toNat) := by
  have outcome : (j.completes t late).raised.run.outcome ≠ some .cancelled := by
    simp only [Job.completes, Job.raised, RunRecord.marker]
    exact nofun
  have notLate : ¬∃ d, (j.completes t late).raised.deadline = some d ∧ d.toNat < now.toNat :=
    fun ⟨d, hd, below⟩ => absurd (alive d hd) (by omega)
  rw [Job.endsAt_iff]
  constructor
  · rintro (cancelled | ending | ⟨_, _, r, hr, notZero, last⟩ | deadline)
    · exact absurd cancelled outcome
    · exact .inl ending
    · have same : runs = r := by
        have := trigger.symm.trans hr
        injection this
      rw [same]
      exact .inr ⟨notZero, last⟩
    · exact absurd deadline notLate
  · rintro (ending | ⟨notZero, last⟩)
    · exact .inr (.inl ending)
    · exact .inr (.inr (.inl ⟨period, phase, runs, trigger, notZero, last⟩))

/-- The record of a recurring marker whose report has been queued. -/
def Job.markerCounted (j : Job) (t : Time) : Job :=
  (({ j with runRes := true } : Job).completes t false).runCounted.reported

/-- The state in which a recurring marker's report has been queued through the run reservation it has
taken. -/
def State.markerQueued (s : State) (slot : Nat) (j : Job) (last : Bool) : State :=
  { s with
    slots := s.slots.set slot (some (j.markerCounted s.time))
    reports := s.reports.push (.job (j.markerReport s.time false last)) }

/-- A match of a recurring marker (R17, R60). -/
theorem State.matchEvery_marker {s : State} {slot : Nat} {j : Job} (hj : s.job? slot = some j)
    (pending : j.state = .pending) (port : j.port = none) (short : j.readTotal ≤ 48)
    (room : 1 ≤ s.reports.room) (recurring : j.recurring = true) :
    s.matchEvery slot =
      let ends := (j.completes s.time false).raised.endsAt s.comparedTime
      if ends = true then (s.markerQueued slot j ends).freeJob slot
      else (s.markerQueued slot j ends).setJob slot
        (({ j with runRes := true } : Job).completes s.time false).again := by
  have grants : s.matchEvery slot = (s.grantRun slot).triggerJob slot s.time false := by
    simp [State.matchEvery, hj, pending, room]
  have granted : (s.grantRun slot).job? slot = some { j with runRes := true } := by
    rw [State.grantRun_of hj]
    exact State.job_setJob_same s _ (State.job_lt hj)
  have hk := State.job_setJob_same (s.grantRun slot)
    (({ j with runRes := true } : Job).completes s.time false) (State.job_lt granted)
  have hk' := State.job_setJob_same (s.grantRun slot)
    (({ j with runRes := true } : Job).completes s.time false).runCounted (State.job_lt granted)
  have compared : ((s.grantRun slot).setJob slot
      (({ j with runRes := true } : Job).completes s.time false)).comparedTime = s.comparedTime := by
    rw [State.grantRun_of hj]
    rfl
  have ends : (({ j with runRes := true } : Job).completes s.time false).raised.endsAt s.comparedTime =
      (j.completes s.time false).raised.endsAt s.comparedTime := rfl
  have queued (last : Bool) : ((s.grantRun slot).setJob slot
      (({ j with runRes := true } : Job).completes s.time false).runCounted).queueJobReport slot
        (j.markerReport s.time false last) = s.markerQueued slot j last := by
    rw [State.queueJobReport_of _ hk', State.setJob_setJob, State.grantRun_of hj]
    show (if (true || _) = true then _ else _) = _
    rw [Bool.true_or, if_pos rfl]
    simp only [State.markerQueued, Job.markerCounted, State.consume, State.reserve, State.setJob,
      State.setReports, List.set_set, ReportQueue.push, Nat.add_sub_cancel]
  have report (u : State) (last : Bool) :
      u.runReport (({ j with runRes := true } : Job).completes s.time false).raised last =
        j.markerReport s.time false last :=
    u.runReport_marker (j := { j with runRes := true }) s.time false last short
  rw [grants, State.triggerJob_marker _ _ granted pending port,
    State.tableRunEnd_recurring hk recurring, compared]
  simp only [ends, report, State.setJob_setJob, queued]

theorem Job.markerCounted_holds {j : Job} (t : Time) (standing : j.standing = true) :
    (j.markerCounted t).standing = true ∧ (j.markerCounted t).runRes = false ∧
      (j.markerCounted t).port = j.port := by
  have kept : (j.markerCounted t).standing = (j.standing && true) := rfl
  rw [kept, standing]
  exact ⟨rfl, rfl, rfl⟩

/-- The record of a recurring marker that stays PENDING. -/
theorem Job.completes_again {j : Job} (t : Time) (pending : j.state = .pending) (standing : j.standing = true)
    (runRes : j.runRes = false) (recurring : j.recurring = true) (ending : j.ending = false) :
    (({ j with runRes := true } : Job).completes t false).again = { j with
      missed := 0
      stopping := false
      runsDone := min (j.runsDone + 1) 65535
      retriesLeft := j.retries
      run := { RunRecord.cleared with
        triggerTime := t, startTime := t, endTime := t, outcome := some .done } } := by
  have retries : ({ j with runRes := true } : Job).triggerRetries = j.retries := by
    have recurring' : ({ j with runRes := true } : Job).recurring = true := recurring
    simp only [Job.triggerRetries, recurring', if_true]
  have completes : ({ j with runRes := true } : Job).completes t false =
      { j with runRes := true, run := RunRecord.marker t false, retriesLeft := j.retries } := by
    rw [Job.completes, retries]
  rw [completes]
  simp only [Job.again, Job.toPending, Job.reported, Job.runCounted, Job.raised, standing,
    Bool.and_true, RunRecord.marker, RunRecord.triggered]
  clear retries completes recurring
  cases j
  simp only at pending runRes ending standing ⊢
  rw [pending, runRes, ending]
  rfl

/-! ### A job that ends without a run (R23) -/

theorem State.without_link (s : State) (slot : Nat) (j : Job) : (s.without slot j).link = s.link := by
  unfold State.without
  split
  · exact State.setPort_link _ _ _
  · rfl

theorem State.endWithoutRun_queued {s : State} {slot : Nat} {j : Job} (o : JobOutcome)
    (hj : s.job? slot = some j) (held : j.replyHeld = false) :
    s.endWithoutRun slot o = (s.queueJobReport slot (s.endReport j o)).freeJob slot := by
  simp only [State.endWithoutRun, hj, held]
  rfl

theorem State.endReport_eq (s : State) (j : Job) (o : JobOutcome) : s.endReport j o = {
    tag := j.tag, outcome := o
    late := if j.state = .ready then j.run.late else false
    last := true, long := j.long, runNumber := j.runsDone, missed := j.missed, retriesUsed := 0
    failStep := 0, failByte := 0
    triggerTime := if j.state = .ready then j.run.triggerTime else 0
    startTime := s.time, endTime := s.time, marks := [], received := 0, data := [] } := by
  simp only [State.endReport, beq_iff_eq]

/-- Its report and then the notices that the room it gives back lets in. -/
theorem State.endWithoutRun_queues {s : State} {slot : Nat} {j : Job} (o : JobOutcome)
    (hj : s.job? slot = some j) (held : j.replyHeld = false) (res : j.standing = true ∨ j.runRes = true) :
    ∃ notices k, s.Queues (s.endWithoutRun slot o) (.job (s.endReport j o) :: notices) k ∧
      ∀ x ∈ notices, x.source ≠ none := by
  have reported : (s.queueJobReport slot (s.endReport j o)).job? slot = some j.reported := by
    rw [State.job_of_set (State.queueJobReport_slots _ hj) (State.job_lt hj), if_pos rfl]
  obtain ⟨notices, k, h, sources⟩ := State.freeJob_queues reported
  refine ⟨notices, 0 + k, ?_, sources⟩
  rw [State.endWithoutRun_queued o hj held]
  exact (State.queueJobReport_queues _ hj res).trans h

theorem State.endWithoutRun_link {s : State} {slot : Nat} {j : Job} (o : JobOutcome)
    (hj : s.job? slot = some j) (held : j.replyHeld = false) : (s.endWithoutRun slot o).link = s.link := by
  have reported : (s.queueJobReport slot (s.endReport j o)).job? slot = some j.reported := by
    rw [State.job_of_set (State.queueJobReport_slots _ hj) (State.job_lt hj), if_pos rfl]
  rw [State.endWithoutRun_queued o hj held, (State.freeJob_moved reported).link]
  exact (State.without_link _ _ _).trans (State.queueJobReport_link _ _ _)

/-- Its reservations are spent or given back. -/
theorem State.endWithoutRun_reserved {s : State} {slot : Nat} {j : Job} (o : JobOutcome)
    (hj : s.job? slot = some j) (held : j.replyHeld = false) (res : j.standing = true ∨ j.runRes = true) :
    (s.endWithoutRun slot o).reports.reserved = s.reports.reserved - j.reservations := by
  have reported : (s.queueJobReport slot (s.endReport j o)).job? slot = some j.reported := by
    rw [State.job_of_set (State.queueJobReport_slots _ hj) (State.job_lt hj), if_pos rfl]
  have spends : (j.runRes || j.standing) = true := by
    rcases res with h | h <;> simp [h]
  have freed := (State.freeJob_moved reported).reserved
  have spent : (s.queueJobReport slot (s.endReport j o)).reports.reserved = s.reports.reserved - 1 := by
    rw [State.queueJobReport_of _ hj, if_pos spends]
    rfl
  rw [State.endWithoutRun_queued o hj held, freed]
  show (s.queueJobReport slot (s.endReport j o)).reports.reserved - j.reported.reservations = _
  rw [spent]
  cases hs : j.standing <;> cases hr : j.runRes <;>
    simp [Job.reservations, Job.reported, hs, hr, Nat.sub_sub]
  simp [hs, hr] at spends

end Sys2Proof.Machine

open Sys2Proof Sys2Proof.Machine

/-- Settles O16: the single-shot marker at its AT and EVENT trigger, the recurring one at its match. -/
theorem markersCompleteAtTheirTrigger : Obligations.MarkersCompleteAtTheirTrigger := by
  unfold Obligations.MarkersCompleteAtTheirTrigger
  intro s tag slot j hj ht pending port short held standing runRes report freed
  refine ⟨fun rest h alive => ⟨fun t0 trigger reached => ?_, fun period phase runs trigger at_ room => ?_⟩,
    fun line count edge rest evals edges triggers trigger => ?_⟩
  · have due : j.atDue s.time = some t0 := (Job.atDue_iff j s.time t0).2 ⟨pending, trigger, reached⟩
    rw [exec_atTrigger_of h (Job.verdict_fires (Job.not_expires alive) due), State.fireAt,
      State.triggerJob_singleMarker _ _ hj pending port short held standing runRes
        (Job.single_of_atTime trigger)]
    rfl
  · intro ends
    have recurring := Job.recurring_of_every trigger
    have hits : j.verdict s.time = .hits :=
      Job.verdict_hits (Job.not_expires alive) (Job.atDue_of_every _ trigger)
        ((Job.everyDue_iff j s.time).2 ⟨.inl pending, period, phase, runs, trigger, at_⟩)
    have compared : s.comparedTime = s.time := State.comparedTime_of_settled h.2.1
    have ends_iff : (j.completes s.time false).raised.endsAt s.comparedTime = true ↔ ends := by
      rw [compared]
      exact Job.completes_endsAt s.time false trigger alive
    have matched := State.matchEvery_marker hj pending port short room recurring
    refine ⟨fun notEnds => ?_, fun itEnds => ?_⟩
    · have off : (j.completes s.time false).raised.endsAt s.comparedTime = false :=
        Bool.eq_false_iff.2 (mt ends_iff.1 notEnds)
      have ending : j.ending = false := Bool.eq_false_iff.2 fun e => notEnds (.inl e)
      rw [exec_everyMatch_of h hits, matched, off,
        Job.completes_again s.time pending standing runRes recurring ending]
      show Host.Outcome.next ({ s with slots := (s.slots.set slot _).set slot _, reports := _, tick := _ } : State) = _
      rw [List.set_set]
      rfl
    · have on : (j.completes s.time false).raised.endsAt s.comparedTime = true := ends_iff.2 itEnds
      rw [on] at matched
      have matched : s.matchEvery slot = (s.markerQueued slot j true).freeJob slot := matched
      have queued : (s.markerQueued slot j true).job? slot = some (j.markerCounted s.time) :=
        State.job_setJob_same s _ (State.job_lt hj)
      obtain ⟨has, spent, portless⟩ := Job.markerCounted_holds s.time standing
      obtain ⟨notices, k, queues, sources⟩ := State.freeJob_queues queued
      have moved := State.freeJob_moved queued
      have leaves := State.freeJob_leaves queued
      have one : (j.markerCounted s.time).reservations = 1 := by simp [Job.reservations, has, spent]
      have without : ((s.markerQueued slot j true).without slot (j.markerCounted s.time)).reports.reserved =
          s.reports.reserved - (j.markerCounted s.time).reservations := by
        simp only [State.without, portless, port]
        rfl
      refine ⟨_, notices, exec_everyMatch_of h hits, ?_, ?_, sources, fun owed => ?_, ?_, ?_, ?_, ?_, ?_,
        fun p => ?_⟩
      · rw [State.setEvals_slots, matched, leaves.slots]
        exact List.set_set ..
      · rw [State.setEvals_reports, matched, queues.queued]
        exact List.append_assoc ..
      · exact notices_eq_nil queues sources owed
      · rw [State.setEvals_reports, matched, moved.reserved, without, one]
      · rw [State.setEvals_tick, matched, leaves.moved.tick]
        rfl
      · rw [State.setEvals_time, matched, leaves.moved.time]
        rfl
      · rw [State.setEvals_link, matched, moved.link]
        simp only [State.without, portless, port]
        rfl
      · rw [State.setEvals_pool, matched, leaves.moved.pool]
        rfl
      · rw [State.port_setEvals, matched, leaves.ready p,
          if_neg (fun c => absurd (portless.symm.trans c.2) (by rw [port]; exact nofun))]
        cases p <;> rfl
  · have found : (s.setTick { s.tick with triggers := rest }).job? slot = some j := hj
    rw [exec_eventTrigger_of evals edges triggers hj ht, State.fireEvent_of edge found trigger,
      State.triggerJob_singleMarker _ _ found pending port short held standing runRes
        (Job.single_of_event trigger)]
    rfl

/-- Settles O17. -/
theorem deadlineExpiryEndsTheJob : Obligations.DeadlineExpiryEndsTheJob := by
  unfold Obligations.DeadlineExpiryEndsTheJob
  intro s tag slot rest j d h states deadline late held res
  have expires : j.expires s.time = true := (Job.expires_iff j s.time).2 ⟨states, d, deadline, late⟩
  have hj : s.job? slot = some j := h.2.2.2.1
  have leaves := State.endWithoutRun_leaves .expired hj
  obtain ⟨notices, k, queues, sources⟩ := State.endWithoutRun_queues .expired hj held res
  have link : (s.endWithoutRun slot .expired).link = s.link := State.endWithoutRun_link .expired hj held
  refine ⟨_, notices, exec_deadlineExpiry_of h (Job.verdict_expires expires), ?_, ?_, ?_, ?_, ?_, ?_,
    fun p => ?_, fun n => ?_, ?_, sources, fun owed => ?_, ?_⟩
  · rw [State.setEvals_slots, leaves.slots]
  · rw [State.setEvals_counter, leaves.moved.counter]
  · rw [State.setEvals_pool, leaves.moved.pool]
  · rw [State.setEvals_tick, leaves.moved.tick]
    rfl
  · rw [State.setEvals_time, leaves.moved.time]
  · rw [State.setEvals_link, link]
  · rw [State.port_setEvals]
    obtain ⟨l, x, hx⟩ := leaves.moved.ports p
    have ready := leaves.ready p
    rw [hx] at ready ⊢
    simp only [true_and] at ready
    rw [← ready]
  · rw [State.line_setEvals]
    obtain ⟨x, hx⟩ := leaves.moved.lines n
    rw [hx]
  · rw [State.setEvals_reports, State.endWithoutRun_reserved .expired hj held res]
    rfl
  · have none := queues.sources
    rw [owed, List.take_nil, List.filterMap_cons_none rfl, List.filterMap_eq_nil_iff] at none
    exact List.eq_nil_iff_forall_not_mem.2 fun x hx => sources x hx (none x hx)
  · rw [State.setEvals_reports, queues.queued, State.endReport_eq]

end

section
/-! SUPPORT. The end of a run (R18 to R21, R146) and the end of a job whose reply is held (R22, R23). -/

namespace Sys2Proof.Machine

/-! ### The report of a run -/

/-- The report of a run that ends: the run record as the port fills it, with the first read bytes. -/
def State.finalReport (s : State) (r : Run) (j : Job) (o : JobOutcome) (last : Bool) : JobReport :=
  { tag := j.tag, outcome := o, late := j.run.late, last := last, long := decide (48 < j.readTotal)
    runNumber := min (j.runsDone + 1) 65535, missed := j.missed, retriesUsed := j.run.retriesUsed
    failStep := if o = .done then 0 else j.run.failStep
    failByte := if o = .done then 0 else j.run.failByte
    triggerTime := j.run.triggerTime
    startTime := if r.started then j.run.startTime else s.time
    endTime := s.time, marks := j.run.marks, received := j.run.received
    data := (List.range (min j.run.received 48)).map (fun i =>
      Memory.read s.pool (poolAddr j.blocks (j.writeLen + i))) }

theorem State.runReport_ran (s : State) (r : Run) (j : Job) (o : JobOutcome) (last : Bool) :
    (s.setJob r.slot (j.ran r.started s.time o)).runReport (j.ran r.started s.time o).raised last =
      s.finalReport r j o last := by
  have data : (s.setJob r.slot (j.ran r.started s.time o)).readArea (j.ran r.started s.time o).raised 0
      (min j.run.received 48) = (List.range (min j.run.received 48)).map (fun i =>
        Memory.read s.pool (poolAddr j.blocks (j.writeLen + i))) := by
    simp only [State.readArea, Nat.zero_add]
    rfl
  simp only [State.runReport, State.finalReport, ← data]
  simp only [Job.raised, Job.ran, RunRecord.ended, beq_iff_eq, Option.some.injEq]
  rfl

theorem State.finishRun_of {s : State} {r : Run} {j : Job} (p : PortId) (o : JobOutcome)
    (next : PortState) (hj : s.job? r.slot = some j) : s.finishRun p r o next =
      ((s.setJob r.slot (j.ran r.started s.time o)).tableRunEnd r.slot).setPortState p next := by
  unfold State.finishRun
  rw [State.modifyRecord_of _ hj]
  rfl

theorem Job.ran_recurring (j : Job) (started : Bool) (now : Time) (o : JobOutcome) :
    (j.ran started now o).recurring = j.recurring := rfl

/-- Whether the end of a run is a recurring job's last. -/
theorem Job.ran_endsAt (j : Job) (started : Bool) (t now : Time) (o : JobOutcome) :
    (j.ran started t o).raised.endsAt now = true ↔
      o = .cancelled ∨ j.ending = true ∨
      (∃ period phase runs, j.trigger = .every period phase runs ∧ runs.toNat ≠ 0 ∧
        min (j.runsDone + 1) 65535 = runs.toNat) ∨
      ∃ d, j.deadline = some d ∧ d.toNat < now.toNat := by
  have outcome : (j.ran started t o).raised.run.outcome = some .cancelled ↔ o = .cancelled :=
    ⟨fun h => Option.some.inj h, fun h => congrArg some h⟩
  rw [Job.endsAt_iff, outcome]
  rfl

/-! ### The table at the end of a run -/

theorem State.without_reserved (s : State) (slot : Nat) (j : Job) :
    (s.without slot j).reports.reserved = s.reports.reserved - j.reservations := by
  unfold State.without
  split
  · simp [State.leaveReady]
  · rfl

section
variable {s : State} {r : Run} {j : Job} {p : PortId} {next : PortState}

/-- The state in which a run's report has been queued, with what is left in the job's slot. -/
def State.ranOut (s : State) (slot : Nat) (left : Option Job) (report : JobReport) : State :=
  { s with
    slots := s.slots.set slot left
    reports := { s.reports.push (.job report) with reserved := s.reports.reserved - 1 } }

/-- A report queued through a reservation, its job then replaced. -/
theorem State.queued_kept {slot : Nat} {k l : Job} (report : JobReport)
    (hj : s.job? slot = some j) (res : (k.runRes || k.standing) = true) :
    ((s.setJob slot k).queueJobReport slot report).setJob slot l = s.ranOut slot (some l) report := by
  have hk : (s.setJob slot k).job? slot = some k := State.job_setJob_same s k (State.job_lt hj)
  rw [State.queueJobReport_of report hk, if_pos res]
  simp only [State.consume, State.setJob, State.setReports, List.set_set, State.ranOut]

theorem State.tableRunEnd_short (o : JobOutcome) (hj : s.job? r.slot = some j) (single : j.recurring = false)
    (standing : j.standing = true) (runRes : j.runRes = false) (short : j.readTotal ≤ 48)
    (held : j.replyHeld = false) (port : j.port = some p) (off : r.slot ∉ (s.port p).ready) :
    (s.setJob r.slot (j.ran r.started s.time o)).tableRunEnd r.slot =
      s.ranOut r.slot none (s.finalReport r j o true) := by
  have hk : (s.setJob r.slot (j.ran r.started s.time o)).job? r.slot = some (j.ran r.started s.time o) :=
    State.job_setJob_same s _ (State.job_lt hj)
  have notHeld : (j.ran r.started s.time o).replyHeld = false := held
  have notLong : (j.ran r.started s.time o).long = false := Job.long_eq_false short
  rw [State.tableRunEnd_single hk single, notHeld, if_neg (by decide), notLong, State.runReport_ran,
    State.setJob_setJob]
  refine State.queued_freed (k := (j.ran r.started s.time o).runCounted) _ hj standing runRes
    (.inr fun q hq => ?_)
  rw [← Option.some.inj (port.symm.trans hq)]
  exact off

theorem State.tableRunEnd_long (o : JobOutcome) (hj : s.job? r.slot = some j) (single : j.recurring = false)
    (standing : j.standing = true) (long : 48 < j.readTotal) (held : j.replyHeld = false) :
    (s.setJob r.slot (j.ran r.started s.time o)).tableRunEnd r.slot = s.ranOut r.slot
      (some { (j.ran r.started s.time o).runCounted.reported with state := .done })
      (s.finalReport r j o true) := by
  have hk : (s.setJob r.slot (j.ran r.started s.time o)).job? r.slot = some (j.ran r.started s.time o) :=
    State.job_setJob_same s _ (State.job_lt hj)
  have hc : (s.setJob r.slot (j.ran r.started s.time o).runCounted).job? r.slot =
      some (j.ran r.started s.time o).runCounted := State.job_setJob_same s _ (State.job_lt hj)
  have notHeld : (j.ran r.started s.time o).replyHeld = false := held
  have isLong : (j.ran r.started s.time o).long = true := decide_eq_true long
  have res : ((j.ran r.started s.time o).runCounted.runRes ||
      (j.ran r.started s.time o).runCounted.standing) = true := by
    show (j.runRes || j.standing) = true
    rw [standing, Bool.or_true]
  rw [State.tableRunEnd_single hk single, notHeld, if_neg (by decide), isLong, State.runReport_ran,
    State.setJob_setJob, State.closeSingle_of (j := (j.ran r.started s.time o).runCounted.reported) true
      (by rw [State.job_of_set (State.queueJobReport_slots _ hc) (by simpa using State.job_lt hj),
        if_pos rfl]), if_pos rfl]
  exact State.queued_kept _ hj res

theorem State.tableRunEnd_again (o : JobOutcome) (hj : s.job? r.slot = some j) (recurring : j.recurring = true)
    (runRes : j.runRes = true)
    (stays : (j.ran r.started s.time o).raised.endsAt s.comparedTime = false) :
    (s.setJob r.slot (j.ran r.started s.time o)).tableRunEnd r.slot = s.ranOut r.slot
      (some (j.ran r.started s.time o).again) (s.finalReport r j o false) := by
  have hk : (s.setJob r.slot (j.ran r.started s.time o)).job? r.slot = some (j.ran r.started s.time o) :=
    State.job_setJob_same s _ (State.job_lt hj)
  have compared : (s.setJob r.slot (j.ran r.started s.time o)).comparedTime = s.comparedTime := rfl
  have res : ((j.ran r.started s.time o).runCounted.runRes ||
      (j.ran r.started s.time o).runCounted.standing) = true := by
    show (j.runRes || j.standing) = true
    rw [runRes, Bool.true_or]
  rw [State.tableRunEnd_recurring hk recurring, compared, stays]
  show ((((s.setJob r.slot _).setJob r.slot _).queueJobReport r.slot _).setJob r.slot _ : State) = _
  rw [State.runReport_ran, State.setJob_setJob]
  exact State.queued_kept _ hj res

theorem State.tableRunEnd_last (o : JobOutcome) (hj : s.job? r.slot = some j) (recurring : j.recurring = true)
    (runRes : j.runRes = true)
    (ends : (j.ran r.started s.time o).raised.endsAt s.comparedTime = true) :
    (s.setJob r.slot (j.ran r.started s.time o)).tableRunEnd r.slot = (s.ranOut r.slot
      (some (j.ran r.started s.time o).runCounted.reported) (s.finalReport r j o true)).freeJob r.slot := by
  have hk : (s.setJob r.slot (j.ran r.started s.time o)).job? r.slot = some (j.ran r.started s.time o) :=
    State.job_setJob_same s _ (State.job_lt hj)
  have hc : (s.setJob r.slot (j.ran r.started s.time o).runCounted).job? r.slot =
      some (j.ran r.started s.time o).runCounted := State.job_setJob_same s _ (State.job_lt hj)
  have compared : (s.setJob r.slot (j.ran r.started s.time o)).comparedTime = s.comparedTime := rfl
  have res : ((j.ran r.started s.time o).runCounted.runRes ||
      (j.ran r.started s.time o).runCounted.standing) = true := by
    show (j.runRes || j.standing) = true
    rw [runRes, Bool.true_or]
  rw [State.tableRunEnd_recurring hk recurring, compared, ends]
  show (((s.setJob r.slot _).setJob r.slot _).queueJobReport r.slot _).freeJob r.slot = _
  rw [State.runReport_ran, State.setJob_setJob, State.queueJobReport_of _ hc, if_pos res]
  simp only [State.consume, State.setJob, State.setReports, List.set_set, State.ranOut]

end

/-! ### A job whose reply is held -/

/-- The link as the held reply leaves with a final report: at the tail of the transmit queue, or waiting
for room (R168, R169). -/
def Link.heldSent (l : Link) (lseq : Byte) (r : JobReport) : Link :=
  if l.tx.length < 4 ∧ l.resetPending = false
  then { l with tx := l.tx ++ [⟨0xC0, lseq, 0x00 :: r.bytes⟩], slot := .empty }
  else { l with slot := .waitingRoom ⟨0xC0, lseq, 0x00 :: r.bytes⟩ }

theorem State.releaseHeld_link {s : State} {tag : Tag} {lseq : Byte} {n : Nat} (r : JobReport)
    (h : s.link.slot = .held tag lseq n) : s.releaseHeld (heldPayload r) = s.setLink (s.link.heldSent lseq r) := by
  rw [State.releaseHeld_held _ h, Link.heldSent]
  split <;> rfl

theorem State.sendHeld_link {s : State} {slot : Nat} {j : Job} {tag : Tag} {lseq : Byte} {n : Nat}
    (r : JobReport) (hj : s.job? slot = some j) (h : s.link.slot = .held tag lseq n) :
    s.sendHeld slot r = (s.setLink (s.link.heldSent lseq r)).setJob slot { j with replyHeld := false } := by
  rw [State.sendHeld_of r hj, State.releaseHeld_link r h]

theorem State.job_sendHeld {s : State} {slot : Nat} {j : Job} {tag : Tag} {lseq : Byte} {n : Nat}
    (r : JobReport) (hj : s.job? slot = some j) (h : s.link.slot = .held tag lseq n) :
    (s.sendHeld slot r).job? slot = some { j with replyHeld := false } := by
  rw [State.sendHeld_link r hj h]
  exact State.job_setJob_same _ _ (State.job_lt hj)

theorem State.sendHeld_queues {s : State} {slot : Nat} {j : Job} (r : JobReport)
    (hj : s.job? slot = some j) : s.Queues (s.sendHeld slot r) [] 0 := by
  have reports := s.reports_releaseHeld (heldPayload r)
  rw [State.sendHeld_of r hj]
  refine State.Queues.of_same (by rw [State.setJob_reports, reports]) (by rw [State.setJob_reports, reports])
    ?_ (fun p => by rw [State.port_setJob, State.port_releaseHeld])
  rw [State.setJob_lines, State.releaseHeld_eq s (heldPayload r)]
  rfl

/-- A waiting job whose content leaves as the held reply is then freed. -/
theorem State.freeHeld_queues {s : State} {slot : Nat} {j : Job} (r : JobReport)
    (hj : s.job? slot = some j) :
    ((s.sendHeld slot r).freeJob slot).reports.reserved = s.reports.reserved - j.reservations ∧
    ∃ notices k, s.Queues ((s.sendHeld slot r).freeJob slot) notices k ∧ ∀ x ∈ notices, x.source ≠ none := by
  have found : (s.sendHeld slot r).job? slot = some { j with replyHeld := false } := by
    rw [State.sendHeld_of r hj]
    exact State.job_setJob_same _ _ (by rw [State.slots_releaseHeld]; exact State.job_lt hj)
  have moved := State.freeJob_moved found
  refine ⟨?_, State.Queues.andThen (State.sendHeld_queues r hj).silent (State.freeJob_queues found)⟩
  rw [moved.reserved, State.without_reserved, State.sendHeld_of r hj, State.setJob_reports,
    State.reports_releaseHeld]
  rfl

theorem State.freeHeld_link {s : State} {slot : Nat} {j : Job} {tag : Tag} {lseq : Byte} {n : Nat}
    (r : JobReport) (hj : s.job? slot = some j) (h : s.link.slot = .held tag lseq n) :
    ((s.sendHeld slot r).freeJob slot).link = s.link.heldSent lseq r := by
  rw [(State.freeJob_moved (State.job_sendHeld r hj h)).link, State.without_link, State.sendHeld_link r hj h]
  rfl

/-- The end of a single-shot run whose reply is held, up to the closing of the job: its content sent and
its standing reservation given back. -/
def State.heldOut (s : State) (r : Run) (j : Job) (o : JobOutcome) : State :=
  (((s.setJob r.slot (j.ran r.started s.time o)).setJob r.slot
    (j.ran r.started s.time o).runCounted).sendHeld r.slot (s.finalReport r j o true)).giveBackStanding r.slot

/-- The record it leaves. -/
def Job.heldOut (j : Job) (r : Run) (now : Time) (o : JobOutcome) : Job :=
  { (j.ran r.started now o).runCounted with replyHeld := false, standing := false }

section
variable {s : State} {r : Run} {j : Job} {tag : Tag} {lseq : Byte} {n : Nat}

theorem State.tableRunEnd_held (o : JobOutcome) (hj : s.job? r.slot = some j) (single : j.recurring = false)
    (held : j.replyHeld = true) : (s.setJob r.slot (j.ran r.started s.time o)).tableRunEnd r.slot =
      (s.heldOut r j o).closeSingle r.slot j.long := by
  have hk : (s.setJob r.slot (j.ran r.started s.time o)).job? r.slot = some (j.ran r.started s.time o) :=
    State.job_setJob_same s _ (State.job_lt hj)
  have isHeld : (j.ran r.started s.time o).replyHeld = true := held
  rw [State.tableRunEnd_single hk single, isHeld, if_pos rfl, State.runReport_ran]
  rfl

/-- What is left with the content sent and the reservation given back. -/
theorem State.heldOut_facts (o : JobOutcome) (hj : s.job? r.slot = some j) (standing : j.standing = true)
    (slot : s.link.slot = .held tag lseq n) :
    (s.heldOut r j o).slots = s.slots.set r.slot (some (j.heldOut r s.time o)) ∧
    (s.heldOut r j o).link = s.link.heldSent lseq (s.finalReport r j o true) ∧
    (s.heldOut r j o).reports.reserved = s.reports.reserved - 1 ∧
    (s.heldOut r j o).time = s.time ∧ (s.heldOut r j o).pool = s.pool ∧
    ∃ notices k, s.Queues (s.heldOut r j o) notices k ∧ ∀ x ∈ notices, x.source ≠ none := by
  have counted : ((s.setJob r.slot (j.ran r.started s.time o)).setJob r.slot
      (j.ran r.started s.time o).runCounted).job? r.slot = some (j.ran r.started s.time o).runCounted := by
    rw [State.setJob_setJob]
    exact State.job_setJob_same s _ (State.job_lt hj)
  have found := State.job_sendHeld (s.finalReport r j o true) counted slot
  have moved := State.giveBackStanding_moved found
  have facts := State.giveBackStanding_facts found
  have has : ({ (j.ran r.started s.time o).runCounted with replyHeld := false } : Job).standing = true := standing
  rw [has, if_pos rfl, State.sendHeld_link _ counted slot] at moved
  rw [State.sendHeld_link _ counted slot] at facts
  unfold State.heldOut
  rw [State.sendHeld_link _ counted slot]
  refine ⟨?_, ?_, moved.reserved, moved.time, moved.pool, ?_⟩
  · rw [facts.2.1]
    simp only [State.setJob, State.setLink, List.set_set]
    rfl
  · rw [facts.2.2.2]
    rfl
  · refine State.Queues.andThen (State.Queues.silent ?_) (State.giveBackStanding_queues _ _)
    exact State.Queues.of_same rfl rfl rfl (fun p => by simp)

end

/-- A port that drives neither line in its next state enters it. -/
theorem State.ranOut_setPortState (s : State) (slot : Nat) (left : Option Job) (report : JobReport)
    (p : PortId) {next : PortState} (rest : next.AtRest) :
    (s.ranOut slot left report).setPortState p next =
      ({ s with slots := s.slots.set slot left, reports := { s.reports.push (.job report) with
          reserved := s.reports.reserved - 1 } } : State).setPort p
        { s.port p with state := next, drive := Drive.released, stretch := 0 } := by
  have drive : next.drive = Drive.released := rest
  cases p <;> simp only [State.setPortState, drive] <;> rfl

theorem PortState.atRest_of_next {next : PortState}
    (h : next = .idle ∨ next = .detached ∨ next = .recovering .run .release) : next.AtRest := by
  rcases h with rfl | rfl | rfl <;> rfl

end Sys2Proof.Machine

open Sys2Proof Sys2Proof.Machine

/-- Settles O33: the four ends that a run can have, for a job whose reply is not held. -/
theorem aRunEndReportsAndClosesTheJob : Obligations.ARunEndReportsAndClosesTheJob := by
  unfold Obligations.ARunEndReportsAndClosesTheJob
  intro s p r o next j states hj port held off slot run done report consumed left ends
  have rest := PortState.atRest_of_next states
  have ends_iff : (j.ran r.started s.time o).raised.endsAt s.comparedTime = true ↔ ends :=
    Job.ran_endsAt _ _ _ _ _
  refine ⟨fun single standing runRes short => ?_, fun single standing runRes long => ?_,
    fun recurring runRes stays => ?_, fun recurring runRes standing itEnds => ?_⟩
  · rw [State.finishRun_of p o next hj, State.tableRunEnd_short o hj single standing runRes short held port off,
      State.ranOut_setPortState _ _ _ _ _ rest]
    rfl
  · have record : ({ (j.ran r.started s.time o).runCounted.reported with state := .done } : Job) = { j with
        state := .done, standing := false, runsDone := done, missed := 0, run := run } := by
      simp only [Job.reported, Job.runCounted, Job.raised, Job.ran, runRes, Bool.and_false]
      rfl
    rw [State.finishRun_of p o next hj, State.tableRunEnd_long o hj single standing long held,
      State.ranOut_setPortState _ _ _ _ _ rest, record]
    rfl
  · have record : (j.ran r.started s.time o).again = { j with
        state := .pending, runRes := false, runsDone := done, missed := 0, run := run
        ending := false, stopping := false } := by
      simp only [Job.again, Job.toPending, Job.reported, Job.runCounted, Job.raised, Job.ran, runRes,
        Bool.and_true]
      rfl
    rw [State.finishRun_of p o next hj, State.tableRunEnd_again o hj recurring runRes
      (Bool.eq_false_iff.2 (mt ends_iff.1 stays)), State.ranOut_setPortState _ _ _ _ _ rest, record]
    rfl
  · have found : (s.ranOut slot (some (j.ran r.started s.time o).runCounted.reported)
        (s.finalReport r j o true)).job? slot = some (j.ran r.started s.time o).runCounted.reported :=
      State.job_setJob_same s _ (State.job_lt hj)
    obtain ⟨notices, k, queues, sources⟩ := State.freeJob_queues found
    have leaves := State.freeJob_leaves found
    have reserved := (State.freeJob_moved found).reserved
    rw [State.without_reserved] at reserved
    have one : (j.ran r.started s.time o).runCounted.reported.reservations = 1 := by
      simp [Job.reservations, Job.reported, Job.runCounted, Job.raised, Job.ran, runRes, standing]
    rw [one] at reserved
    have eq := State.finishRun_of p o next hj
    rw [State.tableRunEnd_last o hj recurring runRes (ends_iff.2 itEnds)] at eq
    have same : (s.ranOut slot (some (j.ran r.started s.time o).runCounted.reported)
        (s.finalReport r j o true)).port p = s.port p := by cases p <;> rfl
    refine ⟨notices, ?_⟩
    dsimp only
    rw [eq]
    refine ⟨?_, fun i hi => ?_, ?_, ?_, ?_, ?_, sources, ?_, ?_, ?_, ?_⟩
    · rw [State.job_setPortState, State.job_of_set leaves.slots (State.job_lt found), if_pos rfl]
    · rw [State.job_setPortState, State.job_of_set leaves.slots (State.job_lt found), if_neg hi]
      exact State.job_setJob_other s _ hi
    · rw [State.setPortState_port_same]
    · rw [State.setPortState_port_same]
      exact rest
    · rw [State.setPortState_port_same]
      have ready := leaves.ready p
      rw [if_pos ⟨rfl, port⟩, same] at ready
      exact ready.trans (List.filter_eq_self.2 fun i hi => decide_eq_true fun (e : i = r.slot) => off (e ▸ hi))
    · rw [State.setPortState_reports, queues.queued]
      exact List.append_assoc ..
    · rw [State.setPortState_reports, reserved]
      rfl
    · rw [State.setPortState_link, (State.freeJob_moved found).link, State.without_link]
      rfl
    · rw [State.setPortState_pool, leaves.moved.pool]
      rfl
    · rw [State.setPortState_time, leaves.moved.time]
      rfl

/-- Settles O34: the end without a run, its place in the evaluation, and the end of a run. -/
theorem aHeldJobEndsInItsHeldReply : Obligations.AHeldJobEndsInItsHeldReply := by
  unfold Obligations.AHeldJobEndsInItsHeldReply
  intro s slot j o lseq n hj held slotHeld sent
  refine ⟨?_, fun tag rest d h states deadline late => ?_,
    fun p r next at_ port single standing runRes => ?_⟩
  · have ends : s.endWithoutRun slot o = (s.sendHeld slot (s.endReport j o)).freeJob slot := by
      simp only [State.endWithoutRun, hj, held, if_true]
    have leaves := State.endWithoutRun_leaves o hj
    obtain ⟨reserved, notices, k, queues, sources⟩ := State.freeHeld_queues (s.endReport j o) hj
    have link := State.freeHeld_link (s.endReport j o) hj slotHeld
    rw [← ends] at link reserved queues
    refine ⟨notices, ?_, fun i hi => ?_, ?_, queues.queued, sources, reserved, leaves.moved.time⟩
    · rw [State.job_of_set leaves.slots (State.job_lt hj), if_pos rfl]
    · rw [State.job_of_set leaves.slots (State.job_lt hj), if_neg hi]
    · rw [link, State.endReport_eq]
      rfl
  · have expires : j.expires s.time = true := (Job.expires_iff j s.time).2 ⟨states, d, deadline, late⟩
    exact exec_deadlineExpiry_of h (Job.verdict_expires expires)
  · intro start
    subst at_
    obtain ⟨slots, link, reserved, time, pool, notices, k, queues, sources⟩ :=
      State.heldOut_facts o hj standing slotHeld
    have found : (s.heldOut r j o).job? r.slot = some (j.heldOut r s.time o) := by
      rw [State.job_of_set slots (State.job_lt hj), if_pos rfl]
    have eq := State.finishRun_of p o next hj
    rw [State.tableRunEnd_held o hj single held] at eq
    have link : (s.heldOut r j o).link = sent (s.finalReport r j o true) := link
    by_cases long : 48 < j.readTotal
    · have isLong : j.long = true := decide_eq_true long
      rw [State.closeSingle_of _ found, isLong, if_pos rfl] at eq
      refine ⟨notices, ?_⟩
      dsimp only
      rw [eq]
      refine ⟨by rw [State.setPortState_port_same], fun i hi => ?_, ?_, ?_, sources, ?_, ?_, ?_,
        fun short => absurd short (by omega), fun _ => ?_⟩
      · rw [State.job_setPortState, State.job_setJob_other _ _ hi, State.job_of_set slots (State.job_lt hj),
          if_neg hi]
      · rw [State.setPortState_link, State.setJob_link, link]
        rfl
      · rw [State.setPortState_reports, State.setJob_reports, queues.queued]
      · rw [State.setPortState_reports, State.setJob_reports, reserved]
      · rw [State.setPortState_time, State.setJob_time, time]
      · rw [State.setPortState_pool, State.setJob_pool, pool]
      · rw [State.job_setPortState, State.job_setJob_same _ _ (State.job_lt found)]
        simp only [Job.heldOut, Job.runCounted, Job.raised, Job.ran]
        rfl
    · have notLong : j.long = false := Job.long_eq_false (Nat.le_of_not_lt long)
      rw [State.closeSingle_of _ found, notLong, if_neg (by decide)] at eq
      have leaves := State.freeJob_leaves found
      have moved := State.freeJob_moved found
      have none : (j.heldOut r s.time o).reservations = 0 := by
        simp [Job.reservations, Job.heldOut, Job.runCounted, Job.raised, Job.ran, runRes]
      obtain ⟨notices', k', queues', sources'⟩ := State.Queues.andThen ⟨notices, k, queues, sources⟩
        (State.freeJob_queues found)
      refine ⟨notices', ?_⟩
      dsimp only
      rw [eq]
      refine ⟨by rw [State.setPortState_port_same], fun i hi => ?_, ?_, ?_, sources', ?_, ?_, ?_, fun _ => ?_,
        fun isLong => absurd isLong long⟩
      · rw [State.job_setPortState, State.job_of_set leaves.slots (State.job_lt found), if_neg hi,
          State.job_of_set slots (State.job_lt hj), if_neg hi]
      · rw [State.setPortState_link, moved.link, State.without_link, link]
        rfl
      · rw [State.setPortState_reports, queues'.queued]
      · rw [State.setPortState_reports, moved.reserved, State.without_reserved, none, reserved]
        rfl
      · rw [State.setPortState_time, leaves.moved.time, time]
      · rw [State.setPortState_pool, leaves.moved.pool, pool]
      · rw [State.job_setPortState, State.job_of_set leaves.slots (State.job_lt found), if_pos rfl]

end

section
/-! SUPPORT. CANCEL by the state it finds (R96 to R103, R144). -/

namespace Sys2Proof.Machine

/-- A CANCEL is carried out with no reply held, or with that of the tag it names (R103, R166). -/
theorem exec_cancel_of {s : State} {r : Request} (u : Bool) (h : s.MayTake .cancel r)
    (size : r.payload.length = 2)
    (slot : s.link.slot = .empty ∨ ∃ lseq n, s.link.slot = .held (tagAt r.payload) lseq n) :
    exec (.cancel u) s = .next (cancelBody u r s.emptyHand) := by
  have quiet : s.Quiet := h.1
  show Host.Outcome.next (s.beforeEvent.serve .cancel
    (fun r => tagAt r.payload == s.beforeEvent.link.slot.tag) (cancelBody u)) = _
  rw [quiet.beforeEvent, State.serve_body h (by rw [size]; rfl) (fun held => ?_)]
  rcases slot with empty | ⟨lseq, n, named⟩
  · rw [empty] at held
    cases held
  · rw [named]
    exact beq_self_eq_true _

theorem cancelBody_noSuchJob {s : State} {r : Request} (u : Bool)
    (h : ∀ i j, s.job? i = some j → j.tag ≠ tagAt r.payload) :
    cancelBody u r s.emptyHand = s.replied r (0x30 :: tagBytes (tagAt r.payload)) := by
  have none : s.emptyHand.findSlot (tagAt r.payload) = none := State.findSlot_eq_none_iff.2 h
  simp only [cancelBody, none]
  rfl

/-- The reply by the job's state comes first, and then the effect. -/
theorem cancelBody_live {s : State} {r : Request} {slot : Nat} {j : Job} (u : Bool) (law : s.TableLaw)
    (hj : s.job? slot = some j) (tag : j.tag = tagAt r.payload) :
    cancelBody u r s.emptyHand =
      (s.replied r (j.cancelStatus.code :: tagBytes (tagAt r.payload))).cancelJob slot u := by
  have found : s.emptyHand.findSlot (tagAt r.payload) = some slot := by
    rw [← tag]
    exact law.findSlot hj
  have job : s.emptyHand.job? slot = some j := hj
  simp only [cancelBody, found, job]
  rfl

section
variable {s : State} {slot : Nat} {j : Job} (u : Bool)

theorem State.cancelJob_waiting (hj : s.job? slot = some j) (h : j.state = .pending ∨ j.state = .ready) :
    s.cancelJob slot u = s.cancelWaiting slot := by
  rcases h with h | h <;> simp only [State.cancelJob, hj, h]

theorem State.cancelJob_done (hj : s.job? slot = some j) (h : j.state = .done) : s.cancelJob slot u = s := by
  simp only [State.cancelJob, hj, h]

theorem State.cancelJob_unbreakable (hj : s.job? slot = some j) (active : j.state = .active)
    (h : j.unbreakable = true) : s.cancelJob slot u =
      if j.recurring then s.setJob slot { j with ending := true } else s := by
  simp only [State.cancelJob, hj, active, h, State.modifyJob_of _ hj]
  rfl

theorem State.cancelJob_breakable (hj : s.job? slot = some j) (active : j.state = .active)
    (h : j.unbreakable = false) : s.cancelJob slot u = s.stopRun slot u := by
  simp only [State.cancelJob, hj, active, h]
  rfl

/-- A job with its stopping field set, and its ending field where it is recurring. -/
def Job.stopped (j : Job) : Job := { j with stopping := true, ending := j.ending || j.recurring }

/-- A CANCEL of an ACTIVE breakable job whose run stands on a port. -/
theorem State.stopRun_of {p : PortId} {run : Run} (hj : s.job? slot = some j) (port : j.port = some p)
    (running : (s.port p).state = .running run) (at_ : run.slot = slot) : s.stopRun slot u =
      if j.stopping = true then s.setJob slot j.stopped
      else (s.setJob slot j.stopped).stopNow p run u := by
  have modified : s.modifyJob slot (fun j => { j with stopping := true, ending := j.ending || j.recurring })
      = s.setJob slot j.stopped := State.modifyJob_of _ hj
  have runs : (s.setJob slot j.stopped).run? p = some run := by
    simp only [State.run?, State.port_setJob, running]
  have here : (run.slot == slot) = true := beq_iff_eq.2 at_
  have stops : s.stopping slot = j.stopping := by simp [State.stopping, hj]
  unfold State.stopRun
  simp only [modified, hj, Option.bind_some, port, runs, here, stops, Bool.true_and]
  cases j.stopping <;> rfl

end

/-- Whether a START is under way, as the record of the statement says it (log 8). -/
theorem State.waitsForBus_iff (s : State) (p : PortId) (run : Run) (u : Bool) :
    s.waitsForBus p run u = true ↔
      ¬(run.held = true ∨ (u = true ∧ ∀ n, (s.port p).tracker ≠ some (.busy n))) := by
  have free : (s.port p).trackerFree = true ↔ ∀ n, (s.port p).tracker ≠ some (.busy n) := by
    unfold Port.trackerFree
    split <;> rename_i h <;> simp [h]
  rw [State.waitsForBus, ← free]
  cases run.held <;> cases u <;> simp

theorem Job.cancelStatus_waiting {j : Job} (h : j.state = .pending ∨ j.state = .ready) :
    j.cancelStatus = .cancelled := by
  rcases h with h | h <;> simp only [Job.cancelStatus, h]

/-- A waiting job that a CANCEL frees: what comes back lets notices in. -/
theorem State.cancelWaiting_queues {s : State} {slot : Nat} {j : Job} (hj : s.job? slot = some j) :
    (s.cancelWaiting slot).reports.reserved = s.reports.reserved - j.reservations ∧
    ∃ notices k, s.Queues (s.cancelWaiting slot) notices k ∧ ∀ x ∈ notices, x.source ≠ none := by
  cases held : j.replyHeld with
  | true =>
    have eq : s.cancelWaiting slot = (s.sendHeld slot (s.endReport j .cancelled)).freeJob slot := by
      simp only [State.cancelWaiting, hj, held, if_true]
    rw [eq]
    exact State.freeHeld_queues _ hj
  | false =>
    have eq : s.cancelWaiting slot = s.freeJob slot := by
      simp only [State.cancelWaiting, hj, held]
      rfl
    rw [eq]
    exact ⟨by rw [(State.freeJob_moved hj).reserved, State.without_reserved], State.freeJob_queues hj⟩

theorem State.cancelWaiting_link {s : State} {slot : Nat} {j : Job} (hj : s.job? slot = some j)
    (held : j.replyHeld = false) : (s.cancelWaiting slot).link = s.link := by
  have eq : s.cancelWaiting slot = s.freeJob slot := by
    simp only [State.cancelWaiting, hj, held]
    rfl
  rw [eq, (State.freeJob_moved hj).link, State.without_link]

theorem State.cancelWaiting_heldLink {s : State} {slot : Nat} {j : Job} {tag : Tag} {lseq : Byte} {n : Nat}
    (hj : s.job? slot = some j) (held : j.replyHeld = true) (h : s.link.slot = .held tag lseq n) :
    (s.cancelWaiting slot).link = s.link.heldSent lseq (s.endReport j .cancelled) := by
  have eq : s.cancelWaiting slot = (s.sendHeld slot (s.endReport j .cancelled)).freeJob slot := by
    simp only [State.cancelWaiting, hj, held, if_true]
  rw [eq, State.freeHeld_link _ hj h]

end Sys2Proof.Machine

open Sys2Proof Sys2Proof.Machine

/-- Settles O29, state by state. -/
theorem cancelAnswersByState : Obligations.CancelAnswersByState := by
  unfold Obligations.CancelAnswersByState
  intro s r u h size law tag reply slotOk
  rw [exec_cancel_of u h size slotOk]
  refine ⟨fun none => congrArg _ (cancelBody_noSuchJob u none), fun slot j hj named => ?_⟩
  rw [cancelBody_live u law hj named]
  have job (x : List Byte) : (s.replied r x).job? slot = some j := hj
  refine ⟨fun done => ?_, fun active fixed single => ?_, fun active fixed recurring => ?_, fun waits => ?_⟩
  · rw [State.cancelJob_done u (job _) done, Job.cancelStatus, done]
    rfl
  · rw [State.cancelJob_unbreakable u (job _) active fixed, single, Job.cancelStatus, active, fixed, single]
    rfl
  · rw [State.cancelJob_unbreakable u (job _) active fixed, recurring, Job.cancelStatus, active, fixed,
      recurring]
    rfl
  · rw [State.cancelJob_waiting u (job _) waits, Job.cancelStatus_waiting waits]
    have leaves := State.cancelWaiting_leaves (job (Status.cancelled.code :: tagBytes (tagAt r.payload)))
    obtain ⟨reserved, notices, k, queues, sources⟩ :=
      State.cancelWaiting_queues (job (Status.cancelled.code :: tagBytes (tagAt r.payload)))
    refine ⟨_, notices, rfl, ?_, fun i hi => ?_, fun p port => ?_, queues.queued, sources, reserved,
      leaves.moved.time, leaves.moved.pool, fun notHeld => ?_, fun lseq n held slotHeld => ?_⟩
    · rw [State.job_of_set leaves.slots (State.job_lt (job _)), if_pos rfl]
    · rw [State.job_of_set leaves.slots (State.job_lt (job _)), if_neg hi]
      rfl
    · rw [leaves.ready p, if_pos ⟨rfl, port⟩]
      cases p <;> rfl
    · rw [State.cancelWaiting_link (job _) notHeld]
      rfl
    · intro heldReply
      have slotHeld : (s.replied r (Status.cancelled.code :: tagBytes (tagAt r.payload))).link.slot =
        .held tag lseq n := slotHeld
      have room : (s.link.tx ++ [(⟨r.kind + 0x80, r.lseq, Status.cancelled.code :: tagBytes (tagAt r.payload)⟩
          : Reply)]).length < 4 ↔ s.link.tx.length < 3 := by
        rw [List.length_append, List.length_singleton]
        omega
      rw [State.cancelWaiting_heldLink (job _) held slotHeld, Link.heldSent, State.endReport_eq]
      simp only [State.replied, room]
      rfl

/-- Settles O30: where the run stands when its stopping field is set. -/
theorem cancelStopsABreakableRun : Obligations.CancelStopsABreakableRun := by
  unfold Obligations.CancelStopsABreakableRun
  intro s r u slot j p run h size law slotOk hj named active breakable port running at_ answered stopped here
    withJob underWay
  have status : j.cancelStatus.code = 0x02 := by
    simp only [Job.cancelStatus, active, breakable]
    rfl
  have job : answered.job? slot = some j := hj
  have runs : (answered.port p).state = .running run := by
    rw [← running]
    cases p <;> rfl
  have stops : exec (.cancel u) s = .next (if j.stopping = true then answered.setJob slot j.stopped
      else (answered.setJob slot j.stopped).stopNow p run u) := by
    rw [exec_cancel_of u h size slotOk, cancelBody_live u law hj named, status, ← named]
    exact congrArg _ ((State.cancelJob_breakable u job active breakable).trans
      (State.stopRun_of u job port runs at_))
  have waits : (answered.setJob slot j.stopped).waitsForBus p run u = true ↔ ¬underWay := by
    rw [State.waitsForBus_iff]
    cases p <;> exact Iff.rfl
  have found : (answered.setJob slot j.stopped).job? run.slot = some j.stopped := by
    rw [at_]
    exact State.job_setJob_same _ _ (State.job_lt job)
  have halted : (answered.setJob slot j.stopped).stopHere p run =
      if run.held then (withJob here).setRun p { run with phase := .stop .stopping }
      else (withJob here).finishRun p run .cancelled .idle := by
    unfold State.stopHere
    rw [State.modifyRecord_of _ found, at_, State.setJob_setJob]
    rfl
  refine ⟨fun set => ?_, fun clear hold held => ?_, fun clear notHeld between => ?_⟩
  · rw [stops]
    split
    · rfl
    · next clear =>
      rcases set with set | phase | phase | phase | phase | phase | ⟨after, phase⟩ | ⟨phase, under⟩
      · exact absurd set clear
      · simp only [State.stopNow, phase]
        rfl
      · simp only [State.stopNow, phase]
        rfl
      · simp only [State.stopNow, phase]
        rfl
      · simp only [State.stopNow, phase]
        rfl
      · simp only [State.stopNow, phase]
        rfl
      · simp only [State.stopNow, phase]
        rfl
      · simp only [State.stopNow, phase]
        rw [if_neg (fun w => waits.1 w under)]
        rfl
  · rw [stops, if_neg (by rw [clear]; decide)]
    simp only [State.stopNow, hold]
    rw [halted, held]
    cases p <;> rfl
  · rw [stops, if_neg (by rw [clear]; decide)]
    rcases between with phase | phase | ⟨phase, notUnder⟩
    · simp only [State.stopNow, phase]
      rw [halted, notHeld]
      rfl
    · simp only [State.stopNow, phase]
      rw [halted, notHeld]
      rfl
    · simp only [State.stopNow, phase]
      rw [if_pos (waits.2 notUnder), halted, notHeld]
      rfl

end

section
/-! SUPPORT. The order of admission (R3), and a port set OFF: its jobs ended in that order (R104, R110). -/

namespace Sys2Proof.Machine

/-! ### Insertion by age -/

theorem insertOldest_perm {α : Type} (age : α → Nat) (x : α) : ∀ l : List α,
    (insertOldest age x l).Perm (x :: l)
  | [] => List.Perm.refl _
  | y :: ys => by
    unfold insertOldest
    split
    · exact List.Perm.refl _
    · exact ((insertOldest_perm age x ys).cons y).trans (List.Perm.swap x y ys)

/-- Insertion keeps a list with the oldest first. -/
theorem insertOldest_pairwise {α : Type} (age : α → Nat) (x : α) : ∀ l : List α,
    l.Pairwise (fun a b => age b ≤ age a) → (insertOldest age x l).Pairwise (fun a b => age b ≤ age a)
  | [], _ => List.pairwise_singleton _ _
  | y :: ys, h => by
    obtain ⟨first, rest⟩ := List.pairwise_cons.1 h
    unfold insertOldest
    split
    · next younger =>
      refine List.pairwise_cons.2 ⟨fun z hz => ?_, h⟩
      rcases List.mem_cons.1 hz with rfl | hz
      · omega
      · exact Nat.le_trans (first z hz) (Nat.le_of_lt younger)
    · next older =>
      refine List.pairwise_cons.2 ⟨fun z hz => ?_, insertOldest_pairwise age x ys rest⟩
      rcases List.mem_cons.1 ((insertOldest_perm age x ys).mem_iff.1 hz) with rfl | hz
      · omega
      · exact first z hz

theorem foldl_insertOldest_perm (age : Nat → Nat) : ∀ l acc : List Nat,
    (l.foldl (fun order slot => insertOldest age slot order) acc).Perm (l ++ acc)
  | [], _ => List.Perm.refl _
  | x :: l, acc => ((foldl_insertOldest_perm age l _).trans
      ((insertOldest_perm age x acc).append_left l)).trans List.perm_middle

theorem foldl_insertOldest_pairwise (age : Nat → Nat) : ∀ l acc : List Nat,
    acc.Pairwise (fun a b => age b ≤ age a) →
    (l.foldl (fun order slot => insertOldest age slot order) acc).Pairwise (fun a b => age b ≤ age a)
  | [], _, h => h
  | x :: l, acc, h => foldl_insertOldest_pairwise age l _ (insertOldest_pairwise age x acc h)

theorem State.admissionOrder_perm (s : State) (l : List Nat) : (s.admissionOrder l).Perm l := by
  have h := foldl_insertOldest_perm s.age l []
  rwa [List.append_nil] at h

theorem State.admissionOrder_pairwise (s : State) (l : List Nat) :
    (s.admissionOrder l).Pairwise (fun a b => s.age b ≤ s.age a) :=
  foldl_insertOldest_pairwise s.age l [] List.Pairwise.nil

theorem State.liveSlots_nodup (s : State) : s.liveSlots.Nodup := List.nodup_range.filter _

theorem State.mem_liveSlots {s : State} {i : Nat} : i ∈ s.liveSlots ↔ ∃ j, s.job? i = some j := by
  simp only [State.liveSlots, List.mem_filter, List.mem_range, Option.isSome_iff_exists]
  exact ⟨fun h => h.2, fun ⟨j, hj⟩ => ⟨State.job_lt hj, j, hj⟩⟩

/-- The occupied slots whose jobs pass a test, in the order of admission. -/
theorem State.mem_ordered {s : State} {test : Job → Bool} {i : Nat} :
    i ∈ s.admissionOrder (s.liveSlots.filter (fun i => (s.job? i).any test)) ↔
      ∃ j, s.job? i = some j ∧ test j = true := by
  rw [(s.admissionOrder_perm _).mem_iff, List.mem_filter, State.mem_liveSlots]
  constructor
  · rintro ⟨⟨j, hj⟩, passes⟩
    rw [hj] at passes
    exact ⟨j, hj, passes⟩
  · rintro ⟨j, hj, passes⟩
    exact ⟨⟨j, hj⟩, by rw [hj]; exact passes⟩

theorem State.ordered_nodup (s : State) (test : Nat → Bool) :
    (s.admissionOrder (s.liveSlots.filter test)).Nodup :=
  (s.admissionOrder_perm _).nodup_iff.2 (s.liveSlots_nodup.filter _)

theorem State.mem_slotsToClose {s : State} {p : PortId} {i : Nat} : i ∈ s.slotsToClose p ↔
    ∃ j, s.job? i = some j ∧ (j.port = some p ∧ (j.state = .pending ∨ j.state = .ready)) := by
  rw [State.slotsToClose, State.mem_ordered]
  simp only [Bool.and_eq_true, Bool.or_eq_true, beq_iff_eq]

/-! ### Jobs ended in order -/

/-- A job of port `p` that the port's closing ends with its report. -/
def Job.Closes (j : Job) (p : PortId) : Prop :=
  j.port = some p ∧ j.replyHeld = false ∧ (j.standing = true ∨ j.runRes = true)

/-- From `s` to `t` the jobs of port `p` in the slots of `l` have ended in that order, each with its
report, and of the rest only notices have moved. -/
structure State.Closed (s : State) (p : PortId) (l : List Nat) (t : State) : Prop where
  moved : s.JobsMoved t
  link  : t.link = s.link
  gone  : ∀ i ∈ l, t.job? i = none
  stay  : ∀ i, i ∉ l → t.job? i = s.job? i
  ready : ∀ q, (t.port q).ready =
    if q = p then (s.port q).ready.filter (fun i => decide (i ∉ l)) else (s.port q).ready
  queue : ∃ reports k, s.Queues t reports k ∧ reports.filter (fun x => x.source == none) =
    l.flatMap (fun i => match s.job? i with
      | some j => [Report.job (s.endReport j .portClosed)]
      | none => [])

theorem closeJobs_closed (p : PortId) : ∀ (l : List Nat) (s : State), l.Nodup →
    (∀ i ∈ l, ∃ j, s.job? i = some j ∧ j.Closes p) → s.Closed p l (closeJobs l s)
  | [], s, _, _ => by
    refine ⟨State.JobsMoved.refl s, rfl, nofun, fun _ _ => rfl, fun q => ?_, [], 0,
      State.Queues.of_same rfl rfl rfl (fun _ => rfl), rfl⟩
    simp [closeJobs]
  | slot :: rest, s, nodup, closes => by
    obtain ⟨j, hj, port, held, res⟩ := closes slot (List.mem_cons_self ..)
    obtain ⟨notIn, nodup⟩ := List.nodup_cons.1 nodup
    have leaves := State.endWithoutRun_leaves .portClosed hj
    obtain ⟨notices, k, queues, sources⟩ := State.endWithoutRun_queues .portClosed hj held res
    have link : (s.endWithoutRun slot .portClosed).link = s.link := State.endWithoutRun_link _ hj held
    have job (i : Nat) : (s.endWithoutRun slot .portClosed).job? i = if i = slot then none else s.job? i :=
      State.job_of_set leaves.slots (State.job_lt hj) i
    have others (i : Nat) (h : i ∈ rest) : (s.endWithoutRun slot .portClosed).job? i = s.job? i := by
      rw [job, if_neg (fun e : i = slot => notIn (e ▸ h))]
    have ih := closeJobs_closed p rest (s.endWithoutRun slot .portClosed) nodup fun i hi => by
      rw [others i hi]
      exact closes i (List.mem_cons_of_mem _ hi)
    refine ⟨leaves.moved.trans ih.moved, ih.link.trans link, fun i hi => ?_, fun i hi => ?_, fun q => ?_, ?_⟩
    · rcases List.mem_cons.1 hi with rfl | hi
      · exact (ih.stay i notIn).trans (by rw [job, if_pos rfl])
      · exact ih.gone i hi
    · obtain ⟨ne, out⟩ := not_or.1 (mt List.mem_cons.2 hi)
      exact (ih.stay i out).trans (by rw [job, if_neg ne])
    · rw [closeJobs, ih.ready q, leaves.ready q]
      by_cases here : q = p
      · subst here
        rw [if_pos rfl, if_pos rfl, if_pos ⟨rfl, port⟩, List.filter_filter]
        exact List.filter_congr fun i _ => by simp [not_or, Bool.and_comm]
      · rw [if_neg here, if_neg here, if_neg (fun c => here (Option.some.inj (c.2.symm.trans port)))]
    · obtain ⟨reports, k', queues', jobs⟩ := ih.queue
      refine ⟨_, _, queues.trans queues', ?_⟩
      have silent : notices.filter (fun x => x.source == none) = [] :=
        List.filter_eq_nil_iff.2 fun x hx => by simpa using sources x hx
      have same : rest.flatMap (fun i => match (s.endWithoutRun slot .portClosed).job? i with
          | some j => [Report.job ((s.endWithoutRun slot .portClosed).endReport j .portClosed)]
          | none => []) = rest.flatMap (fun i => match s.job? i with
          | some j => [Report.job (s.endReport j .portClosed)]
          | none => []) := by
        refine List.flatMap_congr fun i hi => ?_
        rw [others i hi]
        cases s.job? i with
        | none => rfl
        | some k => simp only [State.endReport, leaves.moved.time]
      rw [List.filter_append, List.filter_cons_of_pos (by rfl), silent, jobs, same, List.flatMap_cons]
      simp only [hj]

/-! ### The port that goes OFF -/

theorem State.slotsToClose_congr {s t : State} (slots : t.slots = s.slots) (counter : t.counter = s.counter)
    (p : PortId) : t.slotsToClose p = s.slotsToClose p := by
  simp only [State.slotsToClose, State.admissionOrder, State.liveSlots, State.job?, slots]
  have age : t.age = s.age := funext fun i => by simp only [State.age, State.job?, slots, counter]
  rw [age]

/-- A waiting job's closing is one with a report: no reply is held, and its class has a reservation. -/
theorem State.closes_of_waiting {s : State} {p : PortId} {i : Nat} {j : Job} (dispatch : s.DispatchLaw)
    (held : s.HeldLaw) (empty : s.link.slot = .empty) (hj : s.job? i = some j) (port : j.port = some p)
    (waits : j.state = .pending ∨ j.state = .ready) : j.Closes p := by
  obtain ⟨-, -, -, -, lawful⟩ := dispatch
  obtain ⟨standing, -⟩ := lawful i j hj
  obtain ⟨replies, -⟩ := held
  refine ⟨port, Bool.eq_false_iff.2 fun h => ?_, .inl (standing.2 fun done => ?_)⟩
  · obtain ⟨lseq, n, c⟩ := (replies i j hj).1.1 h
    rw [empty] at c
    cases c
  · rcases waits with h | h <;> rw [h] at done <;> cases done

/-- The closing of a port from a state whose settings stand. -/
theorem State.closePort_closed {s w : State} {p : PortId} {c : PortSettings} {takes : Prop}
    (base : s.SettingsStand w p c takes) (counter : w.counter = s.counter) (dispatch : s.DispatchLaw)
    (held : s.HeldLaw) (empty : s.link.slot = .empty) :
    w.Closed p (s.slotsToClose p) (closeJobs (s.slotsToClose p) w) ∧
      w.closePort p = (closeJobs (s.slotsToClose p) w).setPortState p .off := by
  refine ⟨closeJobs_closed p _ w (s.ordered_nodup _) fun i hi => ?_, ?_⟩
  · obtain ⟨j, hj, port, waits⟩ := State.mem_slotsToClose.1 hi
    refine ⟨j, ?_, State.closes_of_waiting dispatch held empty hj port waits⟩
    rw [← hj]
    simp only [State.job?, base.slots]
  · rw [State.closePort, State.slotsToClose_congr base.slots counter]

/-- Every job on a port's ready list ends with the port's closing. -/
theorem State.ready_closes {s : State} (dispatch : s.DispatchLaw) (p : PortId) :
    (s.port p).ready.filter (fun i => decide (i ∉ s.slotsToClose p)) = [] := by
  obtain ⟨-, onList, -⟩ := dispatch
  refine List.filter_eq_nil_iff.2 fun i hi => ?_
  obtain ⟨j, hj, ready, port⟩ := (onList p i).1 hi
  simpa using State.mem_slotsToClose.2 ⟨j, hj, port, .inr ready⟩

end Sys2Proof.Machine

open Sys2Proof Sys2Proof.Machine

/-- Settles O37: the jobs ended in order (`closeJobs_closed`), then the port OFF. -/
theorem configPortOffClosesTheJobs : Obligations.ConfigPortOffClosesTheJobs := by
  unfold Obligations.ConfigPortOffClosesTheJobs
  intro s r l p c h dispatch held payload stretch run recovery off old closes
  have port (q : PortId) : (s.emptyHand.readLines p l).port q = s.port q := by cases p <;> cases q <;> rfl
  have slots : (s.emptyHand.readLines p l).slots = s.slots := by cases p <;> rfl
  have counter : (s.emptyHand.readLines p l).counter = s.counter := by cases p <;> rfl
  have job (i : Nat) : (s.emptyHand.readLines p l).job? i = s.job? i := by cases p <;> rfl
  have link : (s.emptyHand.readLines p l).link = s.emptyHand.link := by cases p <;> rfl
  have lines : (s.emptyHand.readLines p l).lines = s.lines := by cases p <;> rfl
  have line (n : Nat) : (s.emptyHand.readLines p l).line n = s.line n := by cases p <;> rfl
  have reports : (s.emptyHand.readLines p l).reports = s.reports := by cases p <;> rfl
  have time : (s.emptyHand.readLines p l).time = s.time := by cases p <;> rfl
  have pool : (s.emptyHand.readLines p l).pool = s.pool := by cases p <;> rfl
  have same : (s.emptyHand.readLines p l).slotsToClose p = s.slotsToClose p :=
    State.slotsToClose_congr slots counter p
  have base := (s.emptyHand.readLines p l).configured_stands p c (not_false : ¬False)
  have dispatch' : (s.emptyHand.readLines p l).DispatchLaw := by
    simpa only [State.DispatchLaw, port, job] using dispatch
  have held' : (s.emptyHand.readLines p l).HeldLaw := by
    have slot : (s.emptyHand.readLines p l).link.slot = s.link.slot := by rw [link]; rfl
    simpa only [State.HeldLaw, job, slot] using held
  obtain ⟨closed, closing⟩ := State.closePort_closed base (State.setPort_counter _ _ _) dispatch' held'
    (by rw [link]; exact h.2)
  rw [same] at closed closing
  have accepted := exec_configPort_accepted (l := l) h payload stretch run recovery
    (fun _ on => absurd off on)
  rw [State.applySettings_closes (by rw [port]; exact old) off, closing,
    State.setPortState_port_same] at accepted
  have baseJob (i : Nat) : ((s.emptyHand.readLines p l).setPort p
      (((s.emptyHand.readLines p l).port p).configure c)).job? i = s.job? i := by
    rw [State.job_setPort, job]
  have basePort : ((s.emptyHand.readLines p l).setPort p
      (((s.emptyHand.readLines p l).port p).configure c)).port p = (s.port p).configure c := by
    rw [base.port, port]
  have others (q : PortId) (ne : q ≠ p) : ((s.emptyHand.readLines p l).setPort p
      (((s.emptyHand.readLines p l).port p).configure c)).port q = s.port q := by
    rw [base.ports q ne, port]
  have baseReports := base.reports.trans reports
  have baseLines : ((s.emptyHand.readLines p l).setPort p
      (((s.emptyHand.readLines p l).port p).configure c)).lines = s.lines := by
    rw [State.setPort_lines, lines]
  generalize (s.emptyHand.readLines p l).setPort p
      (((s.emptyHand.readLines p l).port p).configure c) = w at *
  obtain ⟨reports, k, queue, jobReports⟩ := closed.queue
  obtain ⟨ready, notice, here⟩ := closed.moved.ports p
  have ended : w.endReport = s.endReport := by
    funext j o
    simp only [State.endReport, base.time, time]
  rw [basePort] at here
  generalize closeJobs (s.slotsToClose p) w = t at *
  have there (x : List Byte) : ((t.setPortState p .off).answer r x).port p =
      { t.port p with state := .off, drive := Drive.released, stretch := 0 } :=
    State.setPortState_port_same _ _ _
  have away (x : List Byte) (q : PortId) (ne : q ≠ p) :
      ((t.setPortState p .off).answer r x).port q = t.port q := State.setPortState_port_other _ _ ne
  have noticeOf (x : List Byte) (q : PortId) :
      (((t.setPortState p .off).answer r x).port q).notice = (t.port q).notice := by
    by_cases ne : q = p
    · subst ne
      rw [there]
    · rw [away x q ne]
  refine ⟨_, reports, k, accepted, ?_, ?_, ?_, ?_, ?_, fun q ne => ⟨?_, ?_, ?_⟩, fun i j hj goes => ?_,
    fun i stands => ?_, ?_, ?_, fun i => State.mem_slotsToClose, s.admissionOrder_pairwise _, ?_, ?_,
    fun q => ?_, fun n hn => ?_, ?_, ?_, ?_⟩
  · rw [there, here]
    rfl
  · rw [there]
  · rw [there, here]
    show ((s.port p).configure c).tracker = none
    rw [Port.configure_tracker, if_neg (by rw [off]; decide)]
  · rw [there]
  · rw [there]
    show (t.port p).ready = []
    rw [closed.ready p, if_pos rfl, basePort]
    exact State.ready_closes dispatch p
  · rw [away _ q ne, closed.ready q, if_neg ne, others q ne]
  · rw [away _ q ne, closed.moved.portState, others q ne]
  · rw [away _ q ne, closed.moved.settings, others q ne]
  · exact (State.job_setPortState _ _ _ _).trans (closed.gone i (State.mem_slotsToClose.2 ⟨j, hj, goes⟩))
  · refine (State.job_setPortState _ _ _ _).trans ((closed.stay i fun inList => ?_).trans (baseJob i))
    obtain ⟨j, hj, goes⟩ := State.mem_slotsToClose.1 inList
    exact stands j hj goes
  · show (t.setPortState p .off).reports.queued = _
    rw [State.setPortState_reports, queue.queued, baseReports]
  · rw [jobReports, ended]
    simp only [baseJob] <;> rfl
  · rw [queue.sources, baseReports]
  · show (t.setPortState p .off).reports.owed = _
    rw [State.setPortState_reports, queue.owed, baseReports]
  · rw [noticeOf, queue.ports q, baseReports]
    by_cases ne : q = p
    · subst ne
      rw [basePort]
      rfl
    · rw [others q ne]
  · have settled : w.line n = s.line n := (base.others n (.inl not_false)).trans (line n)
    rw [← settled, ← baseReports]
    exact (State.line_setPortState _ _ _ _).trans (queue.lines n (by rw [baseLines]; exact hn))
  · show ({ (t.setPortState p .off).link with tx := (t.setPortState p .off).link.tx ++ [_] } : Link) = _
    rw [State.setPortState_link, closed.link, base.link, link]
    rfl
  · show (t.setPortState p .off).time = _
    rw [State.setPortState_time, closed.moved.time, base.time, time]
  · show (t.setPortState p .off).pool = _
    rw [State.setPortState_pool, closed.moved.pool, base.pool, pool]

end

section
/-! SUPPORT. What precedes a command, and the evaluation and the event unit's act as wholes (R56, R75;
log 3). -/

namespace Sys2Proof.Machine

/-! ### What precedes a command comes once -/

theorem State.finishTimeBase_tick (s : State) :
    s.finishTimeBase.tick = { s.tick with evals := [] } := by
  unfold State.finishTimeBase
  split
  · next done =>
    rw [← List.isEmpty_iff.1 done]
  · rw [State.setEvals_tick, (evalJobs_tickFree _).tick]

theorem State.finishEventIfBegun_edging (s : State) : s.finishEventIfBegun.tick.edging = false := by
  unfold State.finishEventIfBegun
  split
  · rw [State.finishEventUnit_eq]
    rfl
  · next notBegun => exact Bool.eq_false_iff.2 notBegun

theorem State.beforeEvent_done (s : State) :
    s.beforeEvent.tick.evals = [] ∧ s.beforeEvent.tick.edging = false := by
  rw [State.beforeEvent, State.finishTimeBase_tick]
  exact ⟨rfl, s.finishEventIfBegun_edging⟩

theorem State.beforeEvent_beforeEvent (s : State) : s.beforeEvent.beforeEvent = s.beforeEvent :=
  State.beforeEvent_of_done s.beforeEvent_done.1 s.beforeEvent_done.2

theorem State.beforeWire_beforeEvent (s : State) (p : PortId) : s.beforeEvent.beforeWire p = s.beforeWire p := by
  simp only [State.beforeWire, s.beforeEvent_beforeEvent]

theorem State.beforeLineEvent_beforeEvent (s : State) : s.beforeEvent.beforeLineEvent = s.beforeLineEvent := by
  simp only [State.beforeLineEvent, s.beforeEvent_beforeEvent]

theorem State.finishTick_beforeEvent (s : State) : s.beforeEvent.finishTick = s.finishTick := by
  simp only [State.finishTick, s.beforeEvent_beforeEvent]

theorem exec_beforeEvent {c : Instr} (h : c.followsTheEvaluation = true) (s : State) :
    exec c s.beforeEvent = exec c s := by
  cases c
  case pinReset => cases h
  case tickIncrement => cases h
  case deadlineExpiry => cases h
  case atTrigger => cases h
  case everyMatch => cases h
  case edgeDetected => cases h
  case eventTrigger => cases h
  case setTime => simp only [exec, execSetTime, s.finishTick_beforeEvent]
  case configLine => simp only [exec, execConfigLine, s.beforeLineEvent_beforeEvent]
  case getCapture => simp only [exec, execGetCapture, s.beforeLineEvent_beforeEvent]
  case start => simp only [exec, execStart, s.beforeWire_beforeEvent]
  case address => simp only [exec, execAddress, s.beforeWire_beforeEvent]
  case poll => simp only [exec, execPoll, s.beforeWire_beforeEvent]
  case write => simp only [exec, execWrite, s.beforeWire_beforeEvent]
  case read => simp only [exec, execRead, s.beforeWire_beforeEvent]
  case stop => simp only [exec, execStop, s.beforeWire_beforeEvent]
  case arbitrationLoss => simp only [exec, execArbitrationLoss, s.beforeWire_beforeEvent]
  case recoveryEnd => simp only [exec, execRecoveryEnd, s.beforeWire_beforeEvent]
  all_goals
    simp only [exec, execByteReceived, execGapTimeout, execUnknownKind, execPing, execGetSummary,
      execSetLink, execReset, execResetTakesEffect, execGetTime, execClearCapture, execConfigPort,
      execGetPort, execSubmit, execCancel, execJobStatus, execFetch, execRelease, execReadReports,
      execReplySent, execHoldLimit, execPresenceLoss, execPresenceGain, execSettleEnd, execStuckRecheck,
      execBusStartSeen, execBusStopSeen, execTrackerTimeout, execDispatch, execRunStart,
      execPollGapEnd, execPauseHoldEnd, execPauseFreeEnd, execStretchTimeout, execAttnPulseEnd,
      s.beforeEvent_beforeEvent]

/-! ### The evaluation, job by job -/

/-- The evaluation of the first job is the command that names it. -/
theorem State.finishTimeBase_takes {s u : State} {slot : Nat} {rest : List Nat}
    (evals : s.tick.evals = slot :: rest) (taken : s.evalJob slot = u) :
    (u.setEvals rest).tick.evals = rest ∧ s.finishTimeBase = (u.setEvals rest).finishTimeBase := by
  rw [State.finishTimeBase_cons evals, taken, State.setEvals_tick]
  exact ⟨rfl, rfl⟩

theorem State.evalJob_of {s : State} {slot : Nat} {j : Job} (hj : s.job? slot = some j) :
    s.evalJob slot = match j.verdict s.time with
      | .stands => s
      | .expires => s.endWithoutRun slot .expired
      | .fires t => s.fireAt slot t
      | .hits => s.matchEvery slot := by
  rw [State.evalJob, State.verdict_of hj] <;> rfl

theorem State.verdict_none {s : State} {slot : Nat} (hj : s.job? slot = none) : s.verdict slot = .stands := by
  simp only [State.verdict, hj]

/-! ### The act of the event unit, event by event -/

theorem exec_edgeDetected_of {s : State} {n : Nat} {rest : List Nat} (evals : s.tick.evals = [])
    (edges : s.tick.edges = n :: rest) : exec (.edgeDetected n) s =
      .next ((s.setEdges rest true).detectEdge n).closeEvents := by
  show execEdgeDetected n s = _
  simp only [execEdgeDetected, State.finishTimeBase_nil evals, edges, beq_self_eq_true, if_true]
  rfl

theorem countEdges_edges (n : Nat) (t : Time) : ∀ (l : List Nat) (s : State),
    (countEdges n t l s).tick.edges = s.tick.edges
  | [], _ => rfl
  | slot :: rest, s => by
    have step : (s.countEdge n t slot).tick.edges = s.tick.edges := by
      unfold State.countEdge
      split
      · split
        · dsimp only
          split <;> rfl
        · rfl
      · rfl
    exact (countEdges_edges n t rest _).trans step

theorem State.detectEdge_edges (s : State) (n : Nat) : (s.detectEdge n).tick.edges = s.tick.edges := by
  unfold State.detectEdge
  dsimp only
  split
  · exact countEdges_edges _ _ _ _
  · rfl

theorem State.fireEvent_tick (s : State) (x : Nat × Time) : (s.fireEvent x).tick = s.tick :=
  (State.fireEvent_tickFree x).tick s

theorem State.fireEvent_none {s : State} {slot : Nat} {edge : Time} (hj : s.job? slot = none) :
    s.fireEvent (slot, edge) = s := by
  simp [State.fireEvent, hj]

end Sys2Proof.Machine

open Sys2Proof Sys2Proof.Machine

/-- Settles O2: what precedes a command, then the two acts one event at a time. -/
theorem theEvaluationIsTakenAsAWhole : Obligations.TheEvaluationIsTakenAsAWhole := by
  unfold Obligations.TheEvaluationIsTakenAsAWhole
  refine ⟨fun c s h => ⟨(exec_beforeEvent h s).symm, s.beforeEvent_done⟩, fun s => ?_, fun s => rfl,
    fun s h => State.finishTimeBase_nil h, fun s slot rest evals none => ?_,
    fun s slot rest j edging evals hj => ?_, fun s n rest evals edges => ?_,
    fun s slot edge rest evals edges triggers => ⟨fun j hj => ?_, fun none => ?_⟩,
    fun s edges triggers => State.finishEventUnit_close edges triggers⟩
  · have done : s.finishTimeBase.tick.evals = [] := by rw [s.finishTimeBase_tick]
    have once : s.finishTimeBase.finishTimeBase = s.finishTimeBase := State.finishTimeBase_nil done
    refine ⟨done, fun n => ?_, fun tag => ?_⟩
    · simp only [exec, execEdgeDetected, once]
    · simp only [exec, execEventTrigger, once]
  · rw [State.finishTimeBase_cons evals, State.evalJob_stands (State.verdict_none none)]
    rfl
  · intro expires reached hits takes
    have expires_iff : j.expires s.time = true ↔ expires := Job.expires_iff j s.time
    have alive (h : ¬expires) : j.expires s.time = false := Bool.eq_false_iff.2 (mt expires_iff.1 h)
    have evaluated := State.evalJob_of hj
    refine ⟨fun late => ?_, fun notLate due => ?_, fun notLate due => ?_, fun notLate notAt notEvery => ?_⟩
    · have v := Job.verdict_expires (expires_iff.2 late)
      rw [v] at evaluated
      exact ⟨_, exec_deadlineExpiry_due edging evals hj v, State.finishTimeBase_takes evals evaluated⟩
    · obtain ⟨pending, t0, trigger, past⟩ := due
      have v := Job.verdict_fires (alive notLate) ((Job.atDue_iff j s.time t0).2 ⟨pending, trigger, past⟩)
      rw [v] at evaluated
      exact ⟨_, exec_atTrigger_due edging evals hj v, State.finishTimeBase_takes evals evaluated⟩
    · obtain ⟨state, period, phase, runs, trigger, at_⟩ := due
      have v := Job.verdict_hits (alive notLate) (Job.atDue_of_every _ trigger)
        ((Job.everyDue_iff j s.time).2 ⟨state, period, phase, runs, trigger, at_⟩)
      rw [v] at evaluated
      exact ⟨_, exec_everyMatch_due edging evals hj v, State.finishTimeBase_takes evals evaluated⟩
    · have none : j.atDue s.time = none := by
        cases due : j.atDue s.time with
        | none => rfl
        | some t0 =>
          obtain ⟨pending, trigger, past⟩ := (Job.atDue_iff j s.time t0).1 due
          exact absurd ⟨pending, t0, trigger, past⟩ notAt
      have off : j.everyDue s.time = false :=
        Bool.eq_false_iff.2 fun due => notEvery ((Job.everyDue_iff j s.time).1 due)
      rw [State.finishTimeBase_cons evals, State.evalJob_stands ((State.verdict_of hj).trans
        (Job.verdict_stands (alive notLate) none off))]
      rfl
  · refine ⟨_, exec_edgeDetected_of evals edges, ?_, ?_⟩
    · rw [State.closeEvents_edges, State.detectEdge_edges]
      rfl
    · rw [State.closeEvents_finishEventUnit]
      exact State.finishEventUnit_edge edges
  · refine ⟨_, exec_eventTrigger_of evals edges triggers hj rfl, ?_, ?_⟩
    · rw [State.closeEvents_triggers, State.fireEvent_tick]
      rfl
    · rw [State.closeEvents_finishEventUnit]
      exact State.finishEventUnit_trigger edges triggers
  · rw [State.finishEventUnit_trigger edges triggers]
    exact congrArg State.finishEventUnit (State.fireEvent_none none)

end

section
/-! SUPPORT. Readings of a byte in progress that come with an event: the row of the byte takes them, and the
port stands as open to an event as before (R124, R125; log 7). -/

namespace Sys2Proof.Machine

/-! ### A port that no act comes before -/

/-- Nothing is under way, and port `p` waits for no stretch timeout: an event on its wires acts at once. -/
structure State.OpenWire (p : PortId) (s : State) : Prop where
  quiet : s.Quiet
  due   : s.stretchDue p = false

theorem State.OpenWire.beforeWire {s : State} {p : PortId} (h : s.OpenWire p) : s.beforeWire p = s :=
  h.quiet.beforeWire h.due

theorem State.OpenWire.to {s t : State} {p : PortId} (h : s.OpenWire p) (tick : t.tick = s.tick)
    (settings : (t.port p).settings = (s.port p).settings)
    (stretch : (t.port p).stretch ≤ (s.port p).stretch) : t.OpenWire p where
  quiet := by
    unfold State.Quiet
    rw [tick]
    exact h.quiet
  due := by
    have due := h.due
    simp only [State.stretchDue, decide_eq_false_iff_not, Nat.not_le] at due ⊢
    rw [settings]
    exact Nat.lt_of_le_of_lt stretch due

variable {s : State} {p : PortId}

/-! ### The acts of a run leave the wire open -/

theorem State.OpenWire.setPort {x : Port} (h : s.OpenWire p) (settings : x.settings = (s.port p).settings)
    (stretch : x.stretch ≤ (s.port p).stretch) : (s.setPort p x).OpenWire p :=
  h.to (State.setPort_tick s p x) (by rw [State.setPort_port_same]; exact settings)
    (by rw [State.setPort_port_same]; exact stretch)

theorem State.OpenWire.setPortState (x : PortState) (h : s.OpenWire p) : (s.setPortState p x).OpenWire p :=
  h.setPort rfl (Nat.zero_le _)

theorem State.OpenWire.setRun (r : Run) (h : s.OpenWire p) : (s.setRun p r).OpenWire p :=
  h.setPortState (.running r)

theorem State.OpenWire.modifyRecord (slot : Nat) (f : RunRecord → RunRecord) (h : s.OpenWire p) :
    (s.modifyRecord slot f).OpenWire p :=
  h.to (State.modifyRecord_tick s slot f) (by rw [State.modifyRecord_port])
    (by rw [State.modifyRecord_port])

theorem State.OpenWire.tableRunEnd (slot : Nat) (h : s.OpenWire p) : (s.tableRunEnd slot).OpenWire p := by
  obtain ⟨list, notice, port⟩ := (State.tableRunEnd_jobsMoved s slot).ports p
  exact h.to (State.tableRunEnd_tick s slot) (by rw [port]) (by rw [port])

theorem State.OpenWire.finishRun (r : Run) (o : JobOutcome) (next : PortState) (h : s.OpenWire p) :
    (s.finishRun p r o next).OpenWire p := ((h.modifyRecord _ _).tableRunEnd _).setPortState next

theorem State.OpenWire.stopHere (r : Run) (h : s.OpenWire p) : (s.stopHere p r).OpenWire p := by
  unfold State.stopHere
  dsimp only
  split
  · exact (h.modifyRecord _ _).setRun _
  · exact (h.modifyRecord _ _).finishRun _ _ _

theorem takeSteps_openWire (r : Run) : ∀ (steps : List Step) (i : Nat) (s : State), s.OpenWire p →
    (takeSteps p r i steps s).OpenWire p
  | [], _, s, h => by
    unfold takeSteps
    dsimp only
    split
    · exact (h.modifyRecord _ _).stopHere r
    · split
      · exact (h.modifyRecord _ _).setRun _
      · exact (h.modifyRecord _ _).finishRun _ _ _
  | step :: rest, i, s, h => by
    have at_ := h.modifyRecord r.slot fun rec => { rec with curStep := i, curByte := 0 }
    unfold takeSteps
    dsimp only
    split
    · exact at_.stopHere r
    · split
      · exact at_.setRun _
      · exact at_.setRun _
      · exact at_.setRun _
      · exact at_.setRun _
      · split
        · exact at_.setRun _
        · exact takeSteps_openWire r rest (i + 1) _ at_
      · exact at_.setRun _
      · split
        · exact at_.setRun _
        · exact at_.setRun _
      · exact takeSteps_openWire r rest (i + 1) _ (at_.modifyRecord _ _)

theorem State.OpenWire.nextStep (r : Run) (h : s.OpenWire p) : (s.nextStep p r).OpenWire p := by
  unfold State.nextStep
  split
  · exact takeSteps_openWire r _ _ s h
  · exact h

theorem State.OpenWire.failByNak (r : Run) (o : JobOutcome) (h : s.OpenWire p) :
    (s.failByNak p r o).OpenWire p := (h.modifyRecord _ _).setRun _

theorem State.OpenWire.nextByte (r : Run) (h : s.OpenWire p) : (s.nextByte p r).OpenWire p := by
  unfold State.nextByte
  split
  · exact (h.modifyRecord _ _).setRun _
  · exact h.nextStep r

theorem State.OpenWire.sendByte (r : Run) (h : s.OpenWire p) : (s.sendByte p r).OpenWire p := by
  unfold State.sendByte
  split
  · exact h.setPort rfl (Nat.le_refl _)
  · exact h

theorem State.OpenWire.giveNinth (nak : Bool) (h : s.OpenWire p) : (s.giveNinth p nak).OpenWire p :=
  h.setPort rfl (Nat.le_refl _)

/-! ### So do the bits of a byte, and what the byte does -/

theorem State.OpenWire.addressSent (r : Run) (nak : Bool) (h : s.OpenWire p) :
    (State.addressSent p s r nak).OpenWire p := by
  have sent := h.sendByte r
  unfold State.addressSent
  dsimp only
  split
  · exact sent.stopHere _
  · split
    · exact sent.failByNak _ _
    · exact sent.nextStep _

theorem State.OpenWire.attemptSent (r : Run) (nak : Bool) (h : s.OpenWire p) :
    (State.attemptSent p s r nak).OpenWire p := by
  have sent := h.sendByte r
  unfold State.attemptSent
  dsimp only
  split
  · exact sent.stopHere _
  · split
    · exact sent.nextStep _
    · split
      · exact sent.setRun _
      · exact sent.failByNak _ _

theorem State.OpenWire.dataSent (r : Run) (nak : Bool) (h : s.OpenWire p) :
    (State.dataSent p s r nak).OpenWire p := by
  have sent := h.sendByte r
  unfold State.dataSent
  dsimp only
  split
  · exact sent.stopHere _
  · split
    · exact sent.failByNak _ _
    · exact sent.nextByte _

theorem State.OpenWire.dataReceived (r : Run) (nak : Bool) (h : s.OpenWire p) :
    (State.dataReceived p s r nak).OpenWire p := by
  unfold State.dataReceived
  dsimp only
  split
  · exact (h.giveNinth _).stopHere _
  · exact (h.giveNinth _).nextByte _

theorem State.OpenWire.storeReadByte (r : Run) (b : Byte) (h : s.OpenWire p) :
    (s.storeReadByte r b).OpenWire p := by
  refine h.to ?_ (by rw [State.storeReadByte_port]) (by rw [State.storeReadByte_port])
  unfold State.storeReadByte
  split
  · exact State.modifyRecord_tick _ _ _
  · rfl

theorem State.OpenWire.takeBit (r : Run) (high : Bool) (h : s.OpenWire p) : (s.takeBit p r high).OpenWire p := by
  have opened : (s.openBit p r).OpenWire p := h.setPort rfl (Nat.le_refl _)
  have taken : ((s.openBit p r).closeBit p r high).OpenWire p := opened.setPort rfl (Nat.zero_le _)
  unfold State.takeBit State.storeAtEighth
  split
  · exact (taken.storeReadByte _ _).setPort rfl (Nat.le_refl _)
  · exact taken

theorem takeBits_openWire : ∀ (bits : List Bool) (s : State), s.OpenWire p → (takeBits p bits s).OpenWire p
  | [], _, h => h
  | high :: rest, s, h => by
    unfold takeBits
    split
    · split
      · exact takeBits_openWire rest _ (h.takeBit _ high)
      · exact h
    · exact h

theorem State.OpenWire.onBits (phase : Phase) (bits : List Bool) {whole : State → Run → Bool → State}
    (byte : ∀ {u : State} (r : Run) (nak : Bool), u.OpenWire p → (whole u r nak).OpenWire p)
    (h : s.OpenWire p) : (s.onBits p phase bits whole).OpenWire p := by
  have taken := takeBits_openWire bits s h
  unfold State.onBits
  split
  · split
    · dsimp only
      split
      · split
        · exact byte _ _ (taken.setPort rfl (Nat.le_refl _))
        · exact taken
      · exact taken
    · exact h
  · exact h

theorem State.OpenWire.passBits (bits : List Bool) (h : s.OpenWire p) : (s.passBits p bits).OpenWire p := by
  unfold State.passBits
  split
  · exact h
  · split
    · split
      · exact h.onBits _ bits State.OpenWire.addressSent
      · exact h.onBits _ bits State.OpenWire.attemptSent
      · exact h.onBits _ bits State.OpenWire.dataSent
      · exact h.onBits _ bits State.OpenWire.dataReceived
      · exact h
    · exact h

/-! ### The readings that come with an event -/

theorem State.passBits_nil (s : State) (p : PortId) : s.passBits p [] = s := rfl

theorem State.passBits_due (bits : List Bool) (due : s.stretchDue p = true) : s.passBits p bits = s := by
  rw [State.passBits, due, Bool.or_true, if_pos rfl]

theorem State.passBits_idle (bits : List Bool) (idle : s.run? p = none) : s.passBits p bits = s := by
  unfold State.passBits
  rw [idle]
  split <;> rfl

/-- The readings that come with an event go to the row of their byte. -/
theorem State.OpenWire.afterBits {bits : List Bool} (h : s.OpenWire p) (some : bits ≠ []) :
    s.afterBits p bits = s.passBits p bits := by
  have guard : (bits.isEmpty || s.stretchDue p) = false := by
    rw [h.due, Bool.or_false, List.isEmpty_eq_false_iff]
    exact some
  unfold State.afterBits State.passBits
  rw [guard]
  cases hr : s.run? p with
  | none => rfl
  | some r =>
    simp only [Bool.false_eq_true, if_false]
    cases r.phase <;>
      simp only [State.after, exec, execAddress, execPoll, execWrite, execRead, h.beforeWire]

/-- An event that acts on what the readings leave takes them first. -/
theorem State.Quiet.takesBitsFirst {c : List Bool → Instr} (quiet : s.Quiet)
    (due : s.stretchDue p = true → ∀ bits, exec (c bits) s = exec (c []) s)
    (open_ : s.OpenWire p → ∀ bits, exec (c bits) s = exec (c []) (s.passBits p bits)) :
    s.TakesBitsFirst p c := by
  intro bits some
  by_cases at_ : s.stretchDue p = true
  · rw [if_pos at_]
    exact due at_ bits
  · have wire : s.OpenWire p := ⟨quiet, Bool.eq_false_iff.2 at_⟩
    rw [if_neg at_, wire.afterBits some]
    exact open_ wire bits

end Sys2Proof.Machine

end

section
/-! SUPPORT. Presence, settle, recovery, re-check and the bus tracker of a port (R112 to R119, R128). -/

namespace Sys2Proof.Machine

/-! ### Entries into a state, as the statements write them -/

theorem State.enterIdle_silent (s : State) (p : PortId) :
    s.enterIdle p false = s.setPortState p .idle := rfl

theorem State.enterIdle_asking (s : State) (p : PortId) :
    s.enterIdle p true = (s.setPortState p .idle).askNotice (.port p) := rfl

theorem State.setPortState_setPort (s : State) (p : PortId) (x : Port) (y : PortState) :
    (s.setPort p x).setPortState p y =
      s.setPort p { x with state := y, drive := y.drive, stretch := 0 } := by
  rw [State.setPortState, State.setPort_port_same, State.setPort_setPort]

theorem State.setJob_setPort (s : State) (p : PortId) (x : Port) (slot : Nat) (j : Job) :
    (s.setPort p x).setJob slot j = (s.setJob slot j).setPort p x := by cases p <;> rfl

/-- The end of a settle, with its notice (R115). -/
theorem State.endSettle_asking (s : State) (p : PortId) : s.endSettle p true =
    if (s.linesOf p).scl = true ∧ (s.linesOf p).sda = true
    then (s.setPortState p .idle).askNotice (.port p)
    else s.setPortState p (.recovering .settle .release) := by
  rw [State.endSettle]
  simp only [bothHigh_iff]
  split <;> rfl

/-- A settle entered with its notice to come: a settle time of 0 ends it at once (R115). -/
theorem State.enterSettling_asking (s : State) (p : PortId) : s.enterSettling p true =
    if (s.port p).settings.settleTime = 0 then s.endSettle p true else s.setPortState p (.settling 0) := by
  unfold State.enterSettling
  dsimp only
  rw [State.setPortState_port_same]
  by_cases zero : (s.port p).settings.settleTime = 0
  · rw [if_pos zero, if_pos (beq_iff_eq.2 zero), State.endSettle_asking, State.endSettle_asking,
      State.setPortState_setPortState, State.setPortState_setPortState]
    have lines : (s.setPortState p (.settling 0)).linesOf p = s.linesOf p := State.linesOf_setPort _ _ _ _
    rw [lines]
  · rw [if_neg zero, if_neg (mt beq_iff_eq.1 zero)]

/-! ### The debounced change of presence -/

theorem Port.looksAtPresence_of {x : Port} (mode : x.settings.mode ≠ .off)
    (presence : x.settings.presence = .require) : x.looksAtPresence = true := by
  simp [Port.looksAtPresence, mode, presence]

theorem exec_presenceLoss_of {s : State} {p : PortId} (quiet : s.Quiet)
    (present : (s.port p).present = true) (due : 64 ≤ (s.port p).presRun)
    (mode : (s.port p).settings.mode ≠ .off) (presence : (s.port p).settings.presence = .require) :
    exec (.presenceLoss p []) s = .next
      ((s.setPort p { s.port p with present := false, presRun := 0 }).losePresence p) := by
  have looks := Port.looksAtPresence_of mode presence
  have isDue : (s.port p).presenceDue = true := decide_eq_true due
  have flip : (s.port p).flipPresence = { s.port p with present := false, presRun := 0 } := by
    rw [Port.flipPresence, present, Bool.not_true]
  show execPresenceLoss p [] s = _
  simp only [execPresenceLoss, quiet.beforeEvent, State.passBits_nil, isDue, present, Bool.and_true, if_true,
    State.takePresence, looks, flip]

theorem exec_presenceGain_of {s : State} {p : PortId} (quiet : s.Quiet)
    (absent : (s.port p).present = false) (due : 64 ≤ (s.port p).presRun)
    (mode : (s.port p).settings.mode ≠ .off) (presence : (s.port p).settings.presence = .require) :
    exec (.presenceGain p) s = .next
      ((s.setPort p { s.port p with present := true, presRun := 0 }).gainPresence p) := by
  have looks := Port.looksAtPresence_of mode presence
  have isDue : (s.port p).presenceDue = true := decide_eq_true due
  have flip : (s.port p).flipPresence = { s.port p with present := true, presRun := 0 } := by
    rw [Port.flipPresence, absent, Bool.not_false]
  show execPresenceGain p s = _
  simp only [execPresenceGain, quiet.beforeEvent, isDue, absent, Bool.not_false, Bool.and_true, if_true,
    State.takePresence, looks, Bool.false_eq_true, if_false, flip]

theorem State.losePresence_idle {s : State} {p : PortId} (idle : ∀ r, (s.port p).state ≠ .running r) :
    s.losePresence p = s.enterDetached p := by
  unfold State.losePresence
  split
  · next r run =>
    exact absurd run (idle r)
  · rfl

theorem State.losePresence_running {s : State} {p : PortId} {r : Run}
    (run : (s.port p).state = .running r) : s.losePresence p =
      ((s.modifyRecord r.slot RunRecord.failHere).finishRun p r .detached .detached).askNotice (.port p) := by
  simp only [State.losePresence, run]

theorem State.gainPresence_other {s : State} {p : PortId} (h : (s.port p).state ≠ .detached) :
    s.gainPresence p = s := by
  unfold State.gainPresence
  split
  · next detached =>
    exact absurd detached h
  · rfl

theorem State.gainPresence_detached {s : State} {p : PortId} (h : (s.port p).state = .detached) :
    s.gainPresence p = s.enterSettling p true := by
  simp only [State.gainPresence, h]

/-- A change of presence waits for no stretch timeout: the readings before it count where none is due. -/
theorem exec_presenceLoss_takes {s : State} {p : PortId} (quiet : s.Quiet) :
    s.TakesBitsFirst p (.presenceLoss p) := by
  refine quiet.takesBitsFirst (fun due bits => ?_) (fun wire bits => ?_)
  · show execPresenceLoss p bits s = execPresenceLoss p [] s
    simp only [execPresenceLoss, quiet.beforeEvent, State.passBits_due bits due, State.passBits_nil]
  · show execPresenceLoss p bits s = execPresenceLoss p [] (s.passBits p bits)
    simp only [execPresenceLoss, quiet.beforeEvent, (wire.passBits bits).quiet.beforeEvent, State.passBits_nil]

/-! ### Settle and re-check -/

theorem exec_settleEnd_of {s : State} {p : PortId} {n : Nat} (quiet : s.Quiet)
    (state : (s.port p).state = .settling n) (due : (s.port p).settings.settleTime.toNat ≤ n) :
    exec (.settleEnd p) s = .next (s.endSettle p true) := by
  show execSettleEnd p s = _
  simp only [execSettleEnd, quiet.beforeEvent, Port.settleDue, state, due, decide_true, if_true]

theorem exec_stuckRecheck_of {s : State} {p : PortId} {n : Nat} (quiet : s.Quiet)
    (state : (s.port p).state = .stuck n) (due : 1024 ≤ n) :
    exec (.stuckRecheck p) s = .next (s.recheck p) := by
  have isDue : (s.port p).recheckDue = true := by
    simp only [Port.recheckDue, state]
    exact decide_eq_true due
  show execStuckRecheck p s = _
  simp only [execStuckRecheck, quiet.beforeEvent, isDue, if_true]

theorem State.recheck_eq (s : State) (p : PortId) : s.recheck p =
    if (s.linesOf p).scl = true ∧ (s.linesOf p).sda = true
    then (s.setPortState p .idle).askNotice (.port p)
    else if (s.linesOf p).scl = true then s.setPortState p (.recovering .stuck .release)
    else s.setPortState p (.stuck 0) := by
  unfold State.recheck
  dsimp only
  simp only [bothHigh_iff]
  split
  · rfl
  · rfl

/-! ### The tracker -/

theorem State.trackStart_none {s : State} {p : PortId} (h : (s.port p).tracker = none) :
    s.trackStart p = s := by
  simp only [State.trackStart, h]

theorem State.trackFree_none {s : State} {p : PortId} (h : (s.port p).tracker = none) :
    s.trackFree p = s := by
  simp only [State.trackFree, h]

theorem State.trackStart_some {s : State} {p : PortId} {k : Tracker} (h : (s.port p).tracker = some k) :
    s.trackStart p = s.setPort p { s.port p with tracker := some (.busy 0) } := by
  simp only [State.trackStart, h]

theorem State.trackFree_some {s : State} {p : PortId} {k : Tracker} (h : (s.port p).tracker = some k) :
    s.trackFree p = s.setPort p { s.port p with tracker := some .free } := by
  simp only [State.trackFree, h]

/-- A tracker seen to be freed, where the port keeps one. -/
theorem State.trackFree_eq (s : State) (p : PortId) : s.trackFree p =
    s.setPort p { s.port p with tracker := (s.port p).tracker.map fun _ => .free } := by
  cases h : (s.port p).tracker with
  | none =>
    rw [State.trackFree_none h, Option.map_none, ← h]
    exact (s.setPort_port_self p).symm
  | some k => rw [State.trackFree_some h, Option.map_some]

theorem State.trackStart_eq (s : State) (p : PortId) : s.trackStart p =
    s.setPort p { s.port p with tracker := (s.port p).tracker.map fun _ => .busy 0 } := by
  cases h : (s.port p).tracker with
  | none =>
    rw [State.trackStart_none h, Option.map_none, ← h]
    exact (s.setPort_port_self p).symm
  | some k => rw [State.trackStart_some h, Option.map_some]

end Sys2Proof.Machine

open Sys2Proof Sys2Proof.Machine

/-- Settles O39: the change that is due is taken, and the port's state says what it does. -/
theorem presenceLossDetachesThePort : Obligations.PresenceLossDetachesThePort := by
  unfold Obligations.PresenceLossDetachesThePort
  refine ⟨fun s p quiet => exec_presenceLoss_takes quiet, fun s p quiet present due mode presence => ?_⟩
  have taken := exec_presenceLoss_of quiet present due mode presence
  refine ⟨fun idle => ?_, fun run j state hj => ?_⟩
  · rw [taken, State.losePresence_idle (by simpa using idle), State.enterDetached,
      State.setPortState_setPort]
    rfl
  · have here : (s.setPort p { s.port p with present := false, presRun := 0 }).job? run.slot = some j := by
      simpa using hj
    rw [taken, State.losePresence_running (r := run) (by simpa using state),
      State.modifyRecord_of RunRecord.failHere here, State.setJob_setPort]
    rfl

/-- Settles O40: the change that is due is taken; a settle of no time ends at once, in its line check. -/
theorem presenceGainSettlesThePort : Obligations.PresenceGainSettlesThePort := by
  unfold Obligations.PresenceGainSettlesThePort
  refine ⟨fun s p quiet absent due mode presence => ?_, fun s p n quiet state due => ?_⟩
  · have taken := exec_presenceGain_of quiet absent due mode presence
    refine ⟨fun other => ?_, fun detached time => ?_, fun detached time => ?_⟩
    · rw [taken, State.gainPresence_other (by simpa using other)]
    · rw [taken, State.gainPresence_detached (by simpa using detached), State.enterSettling_asking,
        if_neg (by simpa using time), State.setPortState_setPort]
      rfl
    · rw [taken, State.gainPresence_detached (by simpa using detached), State.enterSettling_asking,
        if_pos (by simpa using time), State.endSettle_asking, State.linesOf_setPort]
      simp only [State.setPortState_setPort]
      rfl
  · rw [exec_settleEnd_of quiet state due, State.endSettle_asking]
    rfl

/-- Settles O42. -/
theorem theTrackerFollowsTheBus : Obligations.TheTrackerFollowsTheBus := by
  unfold Obligations.TheTrackerFollowsTheBus
  intro s p quiet
  have started : exec (.busStartSeen p) s = .next (s.trackStart p) := by
    show Host.Outcome.next (s.beforeEvent.trackStart p) = _
    rw [quiet.beforeEvent]
  have stopped : exec (.busStopSeen p) s = .next (s.trackFree p) := by
    show Host.Outcome.next (s.beforeEvent.trackFree p) = _
    rw [quiet.beforeEvent]
  refine ⟨fun none => ?_, fun k some => ?_, fun n busy due => ?_⟩
  · rw [started, stopped, State.trackStart_none none, State.trackFree_none none]
    exact ⟨rfl, rfl⟩
  · rw [started, stopped, State.trackStart_some some, State.trackFree_some some]
    exact ⟨rfl, rfl⟩
  · have isDue : (s.port p).trackerDue = true := by
      simp only [Port.trackerDue, busy]
      exact decide_eq_true due
    show execTrackerTimeout p s = _
    simp only [execTrackerTimeout, quiet.beforeEvent, isDue, if_true, State.trackFree_some busy]

end

section
/-! SUPPORT. The stages of a recovery and what ends it (R117, R118). -/

namespace Sys2Proof.Machine

/-! ### The line check -/

theorem State.readLines_setPort (s : State) (p : PortId) (l : Levels) (x : Port) :
    (s.readLines p l).setPort p x = (s.setPort p x).readLines p l := by cases p <;> rfl

theorem State.readLines_setPortState (s : State) (p : PortId) (l : Levels) (x : PortState) :
    (s.readLines p l).setPortState p x = (s.setPortState p x).readLines p l := by cases p <;> rfl

/-- The levels of the pins bear on no notice (R83, R120). -/
theorem State.readLines_askNotice (s : State) (p : PortId) (l : Levels) (q : PortId) :
    (s.readLines p l).askNotice (.port q) = (s.askNotice (.port q)).readLines p l := by
  have enabled : (s.readLines p l).noticeEnabled (.port q) = s.noticeEnabled (.port q) := by
    cases p <;> cases q <;> rfl
  have state : (s.readLines p l).noticeState (.port q) = s.noticeState (.port q) := by
    cases p <;> cases q <;> rfl
  have reports : (s.readLines p l).reports = s.reports := by cases p <;> rfl
  unfold State.askNotice State.requestNotice
  rw [enabled, state, reports]
  split
  · split <;> cases p <;> cases q <;> rfl
  · rfl

theorem State.failRecovery_eq (s : State) (p : PortId) (o : Origin) : s.failRecovery p o =
    if o = .stuck then s.setPortState p (.stuck 0)
    else (s.setPortState p (.stuck 0)).askNotice (.port p) := by
  cases o <;> rfl

theorem State.endRecovery_eq (s : State) (p : PortId) (o : Origin) : s.endRecovery p o =
    if o = .settle ∨ o = .stuck then (s.setPortState p .idle).askNotice (.port p)
    else s.setPortState p .idle := by
  cases o <;> rfl

theorem State.failRecovery_readLines (s : State) (p : PortId) (o : Origin) (l : Levels) :
    (s.readLines p l).failRecovery p o = (s.failRecovery p o).readLines p l := by
  rw [State.failRecovery_eq, State.failRecovery_eq, State.readLines_setPortState]
  split
  · rfl
  · exact State.readLines_askNotice _ _ _ _

theorem State.endRecovery_readLines (s : State) (p : PortId) (o : Origin) (l : Levels) :
    (s.readLines p l).endRecovery p o = (s.endRecovery p o).readLines p l := by
  rw [State.endRecovery_eq, State.endRecovery_eq, State.readLines_setPortState]
  split
  · exact State.readLines_askNotice _ _ _ _
  · rfl

/-- The STOP of a recovery completes: a tracker is freed where SDA rises, and the line check ends it. -/
theorem State.endOfRecovery_eq (s : State) (p : PortId) (o : Origin) (l : Levels) :
    s.endOfRecovery p o l =
      if l.scl = true ∧ l.sda = true then ((s.trackFree p).endRecovery p o).readLines p l
      else ((if l.sda = true then s.trackFree p else s).failRecovery p o).readLines p l := by
  unfold State.endOfRecovery
  dsimp only
  rw [State.failRecovery_readLines, State.endRecovery_readLines]
  by_cases high : l.scl = true ∧ l.sda = true
  · rw [if_pos high, if_pos ((bothHigh_iff l).2 high), if_pos high.2]
  · rw [if_neg high, if_neg (mt (bothHigh_iff l).1 high)]

/-! ### The stages -/

/-- The pulses a recovery has begun at its stage. -/
def RecoveryStage.pulses (stage : RecoveryStage) : Nat :=
  match stage with
  | .release => 0
  | .pulse n => n
  | .stop n => n

section Stages

variable {stage : RecoveryStage} (begins : ∀ n, stage ≠ .stop n)
include begins

theorem RecoveryStage.after_readings (high : Bool) (sda : List Bool) :
    stage.after (high :: sda) = recoveryStages stage.pulses (high :: sda) := by
  cases stage with
  | release => rfl
  | pulse n => rfl
  | stop n => exact absurd rfl (begins n)

theorem RecoveryStage.after_rises {k : Nat} (after : List Bool) (few : stage.pulses + k ≤ 9) :
    stage.after (List.replicate k false ++ true :: after) = some (.stop (stage.pulses + k)) := by
  obtain ⟨high, rest, e⟩ := List.exists_cons_of_ne_nil
    (List.append_ne_nil_of_right_ne_nil (List.replicate k false) (List.cons_ne_nil true after))
  rw [e, RecoveryStage.after_readings begins, ← e, recoveryStages_low _ _ _ few]
  rfl

theorem RecoveryStage.after_stays_low {k : Nat} (few : stage.pulses + k ≤ 9) (some_ : 0 < k) :
    stage.after (List.replicate k false) = some (.pulse (stage.pulses + k)) := by
  obtain ⟨m, rfl⟩ := Nat.exists_eq_add_of_lt some_
  have low := recoveryStages_low (0 + m + 1) stage.pulses [] few
  rw [List.append_nil] at low
  rw [List.replicate_succ, RecoveryStage.after_readings begins, ← List.replicate_succ, low]
  rfl

theorem RecoveryStage.after_fails {k : Nat} (after : List Bool) (begun : stage.pulses ≤ 9)
    (many : 10 ≤ stage.pulses + k) : stage.after (List.replicate k false ++ after) = none := by
  have fails := recoveryStages_fails after begun many
  obtain ⟨m, rfl⟩ := Nat.exists_eq_add_of_lt (show 0 < k by omega)
  rw [List.replicate_succ, List.cons_append, RecoveryStage.after_readings begins, ← List.cons_append,
    ← List.replicate_succ, fails]

theorem RecoveryStage.pulse_ne {k : Nat} (some_ : 0 < k) : RecoveryStage.pulse (stage.pulses + k) ≠ stage := by
  cases stage with
  | release => exact nofun
  | pulse n =>
    intro e
    have same : n + k = n := RecoveryStage.pulse.inj e
    omega
  | stop n => exact absurd rfl (begins n)

end Stages

/-! ### What readings bring a recovery to -/

theorem exec_recoveryEnd_of {s : State} {p : PortId} {o : Origin} {stage : RecoveryStage} (wire : s.OpenWire p)
    (state : (s.port p).state = .recovering o stage) (sda : List Bool) (lines : Option Levels) :
    exec (.recoveryEnd p sda lines) s = .next (s.finishRecovery p o stage sda lines) := by
  show execRecoveryEnd p sda lines s = _
  simp only [execRecoveryEnd, wire.beforeWire, state]

variable {s : State} {p : PortId} {o : Origin} {stage : RecoveryStage} {sda : List Bool}

theorem State.finishRecovery_fails (h : stage.after sda = none) (lines : Option Levels) :
    s.finishRecovery p o stage sda lines = s.failRecovery p o := by
  simp only [State.finishRecovery, h]

theorem State.finishRecovery_ends {n : Nat} (h : stage.after sda = some (.stop n)) (l : Levels) :
    s.finishRecovery p o stage sda (some l) = s.endOfRecovery p o l := by
  simp only [State.finishRecovery, h]

theorem State.finishRecovery_moves {next : RecoveryStage} (h : stage.after sda = some next)
    (moves : next ≠ stage) {lines : Option Levels} (unchecked : lines = none ∨ ∀ n, next ≠ .stop n) :
    s.finishRecovery p o stage sda lines = s.setPortState p (.recovering o next) := by
  rcases unchecked with rfl | other
  · simp only [State.finishRecovery, h, if_neg moves]
  · cases next with
    | stop n => exact absurd rfl (other n)
    | release => simp only [State.finishRecovery, h, if_neg moves]
    | pulse n => simp only [State.finishRecovery, h, if_neg moves]

theorem State.finishRecovery_stands (h : stage.after sda = some stage) {lines : Option Levels}
    (unchecked : lines = none ∨ ∀ n, stage ≠ .stop n) : s.finishRecovery p o stage sda lines = s := by
  rcases unchecked with rfl | other
  · simp only [State.finishRecovery, h, if_true]
  · cases stage with
    | stop n => exact absurd rfl (other n)
    | release => simp only [State.finishRecovery, h, if_true]
    | pulse n => simp only [State.finishRecovery, h, if_true]

end Sys2Proof.Machine

open Sys2Proof Sys2Proof.Machine

/-- Settles O41: the readings bring the recovery to a stage, and the stage says what the port becomes. -/
theorem recoveryAndRecheckMoveThePort : Obligations.RecoveryAndRecheckMoveThePort := by
  unfold Obligations.RecoveryAndRecheckMoveThePort
  refine ⟨fun s p o stage quiet due state => ?_, fun s p n quiet state due => ?_⟩
  · intro pulses kept freed moved failed ended checked
    have wire : s.OpenWire p := ⟨quiet, due⟩
    have count : pulses = stage.pulses := by cases stage <;> rfl
    have enters (x : PortState) : s.setPortState p x = moved kept x x.drive := rfl
    have entersFreed (x : PortState) : (s.trackFree p).setPortState p x = moved freed x x.drive := by
      rw [State.trackFree_eq, State.setPortState_setPort]
    have fails : s.failRecovery p o = failed kept := State.failRecovery_eq s p o
    have failsFreed : (s.trackFree p).failRecovery p o = failed freed := by
      rw [State.failRecovery_eq, entersFreed]
      rfl
    have ends : (s.trackFree p).endRecovery p o = ended freed := by
      rw [State.endRecovery_eq, entersFreed]
      rfl
    have check (l : Levels) : s.endOfRecovery p o l = checked l := by
      rw [State.endOfRecovery_eq, ends]
      simp only [checked]
      by_cases rises : l.sda = true
      · simp only [rises, if_true, failsFreed]
      · simp only [rises, Bool.false_eq_true, if_false, fails]
    refine ⟨fun begins => ?_, fun n stop sda => ?_⟩
    · rw [count]
      refine ⟨fun k after few => ?_, fun k after lines begun many => ?_, fun k lines few some_ => ?_,
        fun lines => ?_⟩
      · have at_ := RecoveryStage.after_rises begins after few
        refine ⟨fun l => ?_, ?_⟩
        · rw [exec_recoveryEnd_of wire state, State.finishRecovery_ends at_, check]
        · rw [exec_recoveryEnd_of wire state,
            State.finishRecovery_moves at_ (fun e => begins _ e.symm) (.inl rfl)]
          rfl
      · rw [exec_recoveryEnd_of wire state,
          State.finishRecovery_fails (RecoveryStage.after_fails begins after begun many), fails]
      · rw [exec_recoveryEnd_of wire state,
          State.finishRecovery_moves (RecoveryStage.after_stays_low begins few some_)
            (RecoveryStage.pulse_ne begins some_) (.inr fun _ => nofun)]
        rfl
      · rw [exec_recoveryEnd_of wire state, State.finishRecovery_stands stage.after_nil (.inr begins)]
    · subst stop
      have at_ := RecoveryStage.after_stop n sda
      refine ⟨fun l => ?_, ?_⟩
      · rw [exec_recoveryEnd_of wire state, State.finishRecovery_ends at_, check]
      · rw [exec_recoveryEnd_of wire state, State.finishRecovery_stands at_ (.inl rfl)]
  · intro move
    rw [exec_stuckRecheck_of quiet state due, State.recheck_eq]
    rfl

end

section
/-! SUPPORT. Dispatch, the run start, and the steps a run takes (R92, R131 to R139). -/

namespace Sys2Proof.Machine

/-! ### Dispatch -/

/-- A job the dispatcher passes over: one that is not READY, or whose deadline is below the time (R92). -/
theorem State.eligible_eq_false_iff {s : State} {slot : Nat} : s.eligible slot = false ↔
    ∀ j, s.job? slot = some j → j.state = .ready → ∃ d, j.deadline = some d ∧ d.toNat < s.time.toNat := by
  unfold State.eligible
  split
  · next j hj =>
    rw [hj]
    have late : j.deadline.any (fun d => decide (d.toNat < s.time.toNat)) = true ↔
        ∃ d, j.deadline = some d ∧ d.toNat < s.time.toNat := by
      cases j.deadline <;> simp
    rw [Bool.and_eq_false_iff, Bool.not_eq_false', late, beq_eq_false_iff_ne]
    constructor
    · rintro (other | passed) k e ready <;> obtain rfl := Option.some.inj e
      · exact absurd ready other
      · exact passed
    · intro skipped
      by_cases ready : j.state = .ready
      · exact .inr (skipped j rfl ready)
      · exact .inl ready
  · next none =>
    rw [none]
    exact ⟨fun _ _ => nofun, fun _ => rfl⟩

theorem State.eligible_of {s : State} {slot : Nat} {j : Job} (hj : s.job? slot = some j)
    (ready : j.state = .ready) (timely : ∀ d, j.deadline = some d → s.time.toNat ≤ d.toNat) :
    s.eligible slot = true := by
  refine Bool.eq_true_of_not_eq_false fun skipped => ?_
  obtain ⟨d, deadline, past⟩ := State.eligible_eq_false_iff.1 skipped j hj ready
  exact absurd past (Nat.not_lt.2 (timely d deadline))

theorem State.dispatchPort_busy {s : State} {p : PortId} (busy : (s.port p).state ≠ .idle) :
    s.dispatchPort p = s := by
  unfold State.dispatchPort
  split
  · next idle _ =>
    exact absurd idle busy
  · rfl

theorem State.dispatchPort_none {s : State} {p : PortId}
    (none : ∀ slot ∈ (s.port p).ready, s.eligible slot = false) : s.dispatchPort p = s := by
  have found : (s.port p).ready.find? s.eligible = .none :=
    List.find?_eq_none.2 fun slot mem => by rw [none slot mem]; exact Bool.false_ne_true
  unfold State.dispatchPort
  split
  · next slot _ first =>
    rw [found] at first
    cases first
  · rfl

theorem State.dispatchPort_first {s : State} {p : PortId} {ahead behind : List Nat} {slot : Nat}
    (idle : (s.port p).state = .idle) (list : (s.port p).ready = ahead ++ slot :: behind)
    (skipped : ∀ i ∈ ahead, s.eligible i = false) (eligible : s.eligible slot = true) :
    s.dispatchPort p = s.dispatchJob p slot := by
  have found : (s.port p).ready.find? s.eligible = some slot := by
    rw [list, List.find?_append, List.find?_eq_none.2 fun i mem => by
      rw [skipped i mem]; exact Bool.false_ne_true, Option.none_or, List.find?_cons_of_pos eligible]
  simp only [State.dispatchPort, idle, found]

/-! ### A job whose stopping field is clear -/

theorem State.stopping_of {s : State} {slot : Nat} {j : Job} (hj : s.job? slot = some j) :
    s.stopping slot = j.stopping := by
  rw [State.stopping, hj, Option.any_some]

theorem State.stopping_setJob {s : State} {slot : Nat} {j : Job} (hj : s.job? slot = some j) (k : Job) :
    (s.setJob slot k).stopping slot = k.stopping :=
  State.stopping_of (State.job_setJob_same s k (State.job_lt hj))

@[simp] theorem State.stopping_setPort (s : State) (p : PortId) (x : Port) (slot : Nat) :
    (s.setPort p x).stopping slot = s.stopping slot := by
  rw [State.stopping, State.job_setPort, State.stopping]

theorem State.RunsJob.clear {s : State} {r : Run} {j : Job} (h : s.RunsJob r j) :
    s.stopping r.slot = false := (State.stopping_of h.1).trans h.2.2

theorem State.RunsJob.setPort {s : State} {r : Run} {j : Job} (h : s.RunsJob r j) (p : PortId) (x : Port) :
    (s.setPort p x).RunsJob r j := ⟨(State.job_setPort s p x r.slot).trans h.1, h.2⟩

@[simp] theorem State.job_readLines (s : State) (p : PortId) (l : Levels) (i : Nat) :
    (s.readLines p l).job? i = s.job? i := by cases p <;> rfl

theorem State.RunsJob.readLines {s : State} {r : Run} {j : Job} (h : s.RunsJob r j) (p : PortId)
    (l : Levels) : (s.readLines p l).RunsJob r j := ⟨(State.job_readLines s p l r.slot).trans h.1, h.2⟩

/-! ### The record of a run at a step -/

/-- A job's run at a step, with the MARK times of the run (R28, R139). -/
def Job.atStep (j : Job) (i : Nat) (marks : List Time) : Job :=
  { j with run := { j.run with curStep := i, curByte := 0, marks := marks } }

section Steps

variable {s : State} {r : Run} {j : Job} (runs : s.RunsJob r j)
include runs

theorem State.RunsJob.reached (i : Nat) :
    s.modifyRecord r.slot (fun rec => { rec with curStep := i, curByte := 0 }) =
      s.setJob r.slot (j.atStep i j.run.marks) := State.modifyRecord_of _ runs.1

theorem State.RunsJob.clear_atStep (i : Nat) (marks : List Time) :
    (s.setJob r.slot (j.atStep i marks)).stopping r.slot = false :=
  (State.stopping_setJob runs.1 _).trans runs.2.2

theorem State.RunsJob.nextStep_eq (p : PortId) :
    s.nextStep p r = takeSteps p r (j.run.curStep + 1) (j.steps.drop (j.run.curStep + 1)) s := by
  simp only [State.nextStep, runs.1]

theorem State.RunsJob.marked (i : Nat) : (s.setJob r.slot (j.atStep i j.run.marks)).modifyRecord r.slot
      (fun rec => { rec with marks := rec.marks ++ [s.time] }) =
    s.setJob r.slot (j.atStep i (j.run.marks ++ [s.time])) := by
  rw [State.modifyRecord_of _ (State.job_setJob_same s _ (State.job_lt runs.1)), State.setJob_setJob]
  rfl

end Steps

end Sys2Proof.Machine

open Sys2Proof Sys2Proof.Machine

/-- Settles O43: the first of the list that is not passed over. -/
theorem dispatchTakesTheFirstEligible : Obligations.DispatchTakesTheFirstEligible := by
  unfold Obligations.DispatchTakesTheFirstEligible
  intro s p quiet passedOver
  have taken : exec (.dispatch p) s = .next (s.dispatchPort p) := by
    show Host.Outcome.next (s.beforeEvent.dispatchPort p) = _
    rw [quiet.beforeEvent]
  have skipped {i : Nat} (h : passedOver i) : s.eligible i = false := State.eligible_eq_false_iff.2 h
  refine ⟨taken, fun busy => ?_, fun all => ?_, fun ahead slot behind j idle list passed hj ready timely => ?_⟩
  · rw [taken, State.dispatchPort_busy busy]
  · rw [taken, State.dispatchPort_none fun i mem => skipped (all i mem)]
  · rw [taken, State.dispatchPort_first idle list (fun i mem => skipped (passed i mem))
      (State.eligible_of hj ready timely), State.dispatchJob_eq hj, State.leaveReady, State.setJob_setPort,
      State.setPortState_setPort]
    have same : (s.port p).ready.filter (fun i => i != slot) = (s.port p).ready.filter (· ≠ slot) :=
      List.filter_congr fun i _ => by by_cases e : i = slot <;> simp [e]
    rw [same]
    rfl

/-- Settles O45: one rule a kind of step, from the recursion of `takeSteps`. -/
theorem eachStepIsTakenByItsKind : Obligations.EachStepIsTakenByItsKind := by
  unfold Obligations.EachStepIsTakenByItsKind
  intro s p r j runs at' goes start
  have reached := runs.reached
  have clear (i : Nat) := runs.clear_atStep i j.run.marks
  have ended : s.modifyRecord r.slot (fun rec => { rec with curByte := 0 }) =
      s.setJob r.slot (j.atStep j.run.curStep j.run.marks) := State.modifyRecord_of _ runs.1
  refine ⟨fun i target dir rest => ?_, fun i target limit gap rest => ?_, fun i n rest => ?_,
    fun i n rest => ?_, fun i n rest => ?_, fun i held rest => ?_, fun i rest free => ?_,
    fun i n held rest => ?_, fun i n free rest => ?_, fun i rest => ?_, fun i held => ?_, fun i free => ?_,
    runs.nextStep_eq p⟩
  · simp only [takeSteps, reached, clear, Bool.false_eq_true, if_false]
    rfl
  · simp only [takeSteps, reached, clear, Bool.false_eq_true, if_false]
    rfl
  · simp only [takeSteps, reached, clear, Bool.false_eq_true, if_false]
    rfl
  · simp only [takeSteps, reached, clear, Bool.false_eq_true, if_false]
    rfl
  · simp only [takeSteps, reached, clear, Bool.false_eq_true, if_false]
    rfl
  · simp only [takeSteps, reached, clear, Bool.false_eq_true, if_false, held, if_true]
    rfl
  · simp only [takeSteps, reached, clear, Bool.false_eq_true, if_false, free]
    rfl
  · simp only [takeSteps, reached, clear, Bool.false_eq_true, if_false, held, if_true]
    rfl
  · simp only [takeSteps, reached, clear, Bool.false_eq_true, if_false, free]
    rfl
  · simp only [takeSteps, reached, clear, Bool.false_eq_true, if_false]
    exact congrArg (takeSteps p r (i + 1) rest) (runs.marked i)
  · simp only [takeSteps, ended, clear, Bool.false_eq_true, if_false, held, if_true]
    rfl
  · simp only [takeSteps, ended, clear, Bool.false_eq_true, if_false, free]
    rfl

end

section
/-! SUPPORT. The run start, a START, a STOP, the waits of a run and its stretch timeout (R125, R126, R131,
R133, R136 to R138, R141). -/

namespace Sys2Proof.Machine

/-! ### The failing position -/

/-- A job's run, its failing position the current one (R36). -/
def Job.failHere (j : Job) : Job := { j with run := j.run.failHere }

theorem State.modifyRecord_failHere {s : State} {slot : Nat} {j : Job} (hj : s.job? slot = some j) :
    s.modifyRecord slot RunRecord.failHere = s.setJob slot j.failHere := State.modifyRecord_of _ hj

theorem Phase.failWritten_iff (phase : Phase) :
    phase.failWritten = true ↔ phase = .stop .stopping ∨ phase = .stop .failed := by
  cases phase with
  | stop after => cases after <;> simp [Phase.failWritten]
  | _ => simp [Phase.failWritten]

theorem State.noteFail_written {s : State} {r : Run}
    (written : r.phase = .stop .stopping ∨ r.phase = .stop .failed) : s.noteFail r = s :=
  if_pos ((Phase.failWritten_iff _).2 written)

theorem State.noteFail_of {s : State} {r : Run} {j : Job} (hj : s.job? r.slot = some j)
    (first : ¬(r.phase = .stop .stopping ∨ r.phase = .stop .failed)) :
    s.noteFail r = s.setJob r.slot j.failHere :=
  (if_neg (mt (Phase.failWritten_iff _).1 first)).trans (State.modifyRecord_failHere hj)

/-! ### The run start -/

theorem State.readLines_setJob (s : State) (p : PortId) (l : Levels) (slot : Nat) (j : Job) :
    (s.readLines p l).setJob slot j = (s.setJob slot j).readLines p l := by cases p <;> rfl

theorem State.OnWire.wire {s : State} {p : PortId} {r : Run} {phase : Phase} (h : s.OnWire p r phase) :
    s.OpenWire p := ⟨h.1, h.2.1⟩

theorem State.OnWire.state {s : State} {p : PortId} {r : Run} {phase : Phase} (h : s.OnWire p r phase) :
    (s.port p).state = .running r := h.2.2.1

theorem State.OnWire.phase {s : State} {p : PortId} {r : Run} {phase : Phase} (h : s.OnWire p r phase) :
    r.phase = phase := h.2.2.2

theorem State.OnWire.runIn {s : State} {p : PortId} {r : Run} {phase : Phase} (h : s.OnWire p r phase) :
    s.runIn p phase = some r := by
  simp only [State.runIn, State.run?_eq_some.2 h.state, h.phase, beq_self_eq_true, if_true]

theorem exec_runStart_of {s : State} {p : PortId} {r : Run} (h : s.OnWire p r .runStart) (l : Levels) :
    exec (.runStart p l) s = .next ((s.readLines p l).beginRun p r) := by
  show execRunStart p l s = _
  simp only [execRunStart, h.wire.quiet.beforeEvent, h.runIn]

section BeginRun

variable {s : State} {p : PortId} {r : Run} {j : Job} (hj : s.job? r.slot = some j)
include hj

theorem State.beginRun_stopping (stopping : j.stopping = true) :
    s.beginRun p r = (s.setJob r.slot j.failHere).finishRun p r .cancelled .idle := by
  rw [State.beginRun, State.stopping_of hj, stopping, if_pos rfl, State.modifyRecord_failHere hj]

theorem State.beginRun_low (clear : j.stopping = false) (sole : (s.port p).settings.mode = .sole)
    (low : ¬((s.linesOf p).scl = true ∧ (s.linesOf p).sda = true)) :
    s.beginRun p r = s.handBack p r false (.recovering .run .release) := by
  have check : bothHigh (s.linesOf p) = false := Bool.eq_false_iff.2 (mt (bothHigh_iff _).1 low)
  rw [State.beginRun, State.stopping_of hj, clear, if_neg Bool.false_ne_true, check, sole]
  rfl

theorem State.beginRun_takes (clear : j.stopping = false)
    (free : (s.port p).settings.mode ≠ .sole ∨ (s.linesOf p).scl = true ∧ (s.linesOf p).sda = true) :
    s.beginRun p r = takeSteps p r 0 j.steps s := by
  have check : ((s.port p).settings.mode == .sole && !bothHigh (s.linesOf p)) = false := by
    rcases free with shared | high
    · rw [beq_eq_false_iff_ne.2 shared, Bool.false_and]
    · rw [(bothHigh_iff _).2 high, Bool.not_true, Bool.and_false]
  rw [State.beginRun, State.stopping_of hj, clear, if_neg Bool.false_ne_true, check,
    if_neg Bool.false_ne_true, hj]

end BeginRun

/-! ### A START -/

theorem Port.busFree_iff (x : Port) (l : Levels) : x.busFree l = true ↔
    l.scl = true ∧ l.sda = true ∧ ∀ n, x.tracker ≠ some (.busy n) := by
  have free : x.trackerFree = true ↔ ∀ n, x.tracker ≠ some (.busy n) := by
    unfold Port.trackerFree
    split <;> rename_i h <;> simp [h]
  rw [Port.busFree, Bool.and_eq_true, bothHigh_iff, free, and_assoc]

/-- A job's run, its start time set by the first START (R131). -/
def Job.startedAt (j : Job) (started : Bool) (now : Time) : Job :=
  { j with run := { j.run with startTime := if started then j.run.startTime else now } }

/-- The run after a START: the bus is held and the address byte follows (R126, R131). -/
def Run.afterStart (r : Run) (st : Step) : Run :=
  { r with held := true, started := true, phase := st.addressPhase }

/-- A port after its START: both lines low, and a tracker BUSY (R126, R128; log 9, log 29). -/
def Port.afterStart (x : Port) (r : Run) (st : Step) : Port :=
  { x with
    tracker := x.tracker.map fun _ => .busy 0
    stretch := 0
    drive := Drive.bothLow
    state := .running (r.afterStart st) }

theorem State.setStart_eq {s : State} {r : Run} {j : Job} (hj : s.job? r.slot = some j) :
    (if r.started then s else s.modifyRecord r.slot (fun rec => { rec with startTime := s.time })) =
      s.setJob r.slot (j.startedAt r.started s.time) := by
  cases started : r.started
  · exact (if_neg Bool.false_ne_true).trans (State.modifyRecord_of _ hj)
  · exact (State.setJob_self hj).symm

/-- The bus held after a START, before the run looks at its stopping field. -/
theorem State.completeStart_of {s : State} {p : PortId} {r : Run} {j : Job} (st : Step)
    (hj : s.job? r.slot = some j) : s.completeStart p r st =
      let t := (s.setJob r.slot (j.startedAt r.started s.time)).setPort p ((s.port p).afterStart r st)
      if j.stopping then t.stopHere p (r.afterStart st) else t := by
  have drive : (r.afterStart st).drive = Drive.bothLow := by cases st <;> rfl
  have held : ((s.setJob r.slot (j.startedAt r.started s.time)).trackStart p).setRun p (r.afterStart st) =
      (s.setJob r.slot (j.startedAt r.started s.time)).setPort p ((s.port p).afterStart r st) := by
    rw [State.trackStart_eq, State.setRun_eq, State.setPort_setPort, State.setPort_port_same, drive,
      State.port_setJob]
    rfl
  unfold State.completeStart
  dsimp only
  rw [State.setStart_eq hj]
  generalize e : ((s.setJob r.slot (j.startedAt r.started s.time)).trackStart p).setRun p _ = t
  obtain rfl := e.symm.trans held
  rw [State.stopping_setPort, State.stopping_setJob hj]
  rfl

section Start

variable {s : State} {p : PortId} {r : Run} {j : Job} {st : Step} (on : s.OnWire p r .start)
  (hj : s.job? r.slot = some j) (at_ : j.steps[j.run.curStep]? = some st)
include on hj at_

theorem exec_start_held (held : r.held = true) (l : Levels) :
    exec (.start ⟨p, l⟩) s = .next (s.completeStart p r st) := by
  have step : s.stepOf r = some st := by simp only [State.stepOf, hj, Job.curStep?, at_]
  show execStart ⟨p, l⟩ s = _
  simp only [execStart, on.wire.beforeWire, on.runIn, step, held, if_true]

theorem exec_start_waits (free : r.held = false) {l : Levels}
    (busy : ¬(l.scl = true ∧ l.sda = true ∧ ∀ n, (s.port p).tracker ≠ some (.busy n))) :
    exec (.start ⟨p, l⟩) s = .next (s.readLines p l) := by
  have step : s.stepOf r = some st := by simp only [State.stepOf, hj, Job.curStep?, at_]
  show execStart ⟨p, l⟩ s = _
  simp only [execStart, on.wire.beforeWire, on.runIn, step, free, Bool.false_eq_true, if_false,
    State.port_readLines, Port.busFree_iff, busy]

theorem exec_start_free (free : r.held = false) {l : Levels}
    (idle : l.scl = true ∧ l.sda = true ∧ ∀ n, (s.port p).tracker ≠ some (.busy n)) :
    exec (.start ⟨p, l⟩) s = .next ((s.readLines p l).completeStart p r st) := by
  have step : s.stepOf r = some st := by simp only [State.stepOf, hj, Job.curStep?, at_]
  show execStart ⟨p, l⟩ s = _
  simp only [execStart, on.wire.beforeWire, on.runIn, step, free, Bool.false_eq_true, if_false,
    State.port_readLines, (Port.busFree_iff _ _).2 idle, if_true]

end Start

/-! ### A STOP -/

/-- A port after a STOP: both lines released, and a tracker FREE (R126, R128). -/
def Port.afterStop (x : Port) (r : Run) : Port :=
  { x with
    tracker := x.tracker.map fun _ => .free
    state := .running r
    drive := Drive.released
    stretch := 0 }

/-- The run after a STOP, which no longer holds the bus (R126). -/
def Run.free (r : Run) : Run := { r with held := false }

theorem State.freeBus_eq (s : State) (p : PortId) (r : Run) :
    (s.trackFree p).releaseBus p r = s.setPort p ((s.port p).afterStop r) := by
  rw [State.trackFree_eq, State.releaseBus, State.setPort_setPort, State.setPort_port_same]
  rfl

theorem exec_stop_of {s : State} {p : PortId} {r : Run} {after : AfterStop}
    (on : s.OnWire p r (.stop after)) : exec (.stop p) s = .next (s.completeStop p r after) := by
  show execStop p s = _
  simp only [execStop, on.wire.beforeWire, State.run?_eq_some.2 on.state, on.phase]

/-- What a STOP was given for follows it, where the stopping field is clear. -/
theorem State.completeStop_clear {s : State} {p : PortId} {r : Run} (clear : s.stopping r.slot = false)
    (after : AfterStop) : s.completeStop p r after =
      let t := s.setPort p ((s.port p).afterStop r.free)
      match after with
      | .step => t.nextStep p r.free
      | .pauseFree => t.setRun p { r.free with phase := .pauseFree, pauseCount := 0 }
      | .pollGap => t.setRun p { r.free with phase := .pollGap, pauseCount := 0 }
      | .implied => t.finishRun p r.free .done .idle
      | .failed => t.finishRun p r.free (((t.job? r.slot).bind (fun j => j.run.outcome)).getD .absent) .idle
      | .stopping => t.finishRun p r.free .cancelled .idle := by
  unfold State.completeStop
  dsimp only
  generalize e : (s.trackFree p).releaseBus p { r with held := false } = t
  obtain rfl : t = s.setPort p ((s.port p).afterStop r.free) := e.symm.trans (State.freeBus_eq s p r.free)
  rw [State.stopping_setPort, clear, if_neg Bool.false_ne_true]
  cases after <;> rfl

/-! ### The waits -/

theorem State.waitTicks_of {s : State} {r : Run} {j : Job} {st : Step} (hj : s.job? r.slot = some j)
    (at_ : j.steps[j.run.curStep]? = some st) : s.waitTicks r =
      match st with
      | .poll _ _ gap => gap * 64
      | .pause _ ticks => ticks
      | _ => 0 := by
  have step : s.stepOf r = some st := by simp only [State.stepOf, hj, Job.curStep?, at_]
  rw [State.waitTicks, step]
  cases st <;> rfl

/-! ### A stretch timeout -/

theorem exec_stretchTimeout_due {s : State} {p : PortId} (quiet : s.Quiet) (due : s.stretchDue p = true)
    (bits : List Bool) : exec (.stretchTimeout p bits) s = .next (s.stretchTimeout p) := by
  show execStretchTimeout p bits s = _
  simp only [execStretchTimeout, quiet.beforeEvent, due, if_true]

theorem exec_stretchTimeout_open {s : State} {p : PortId} (wire : s.OpenWire p) (bits : List Bool) :
    exec (.stretchTimeout p bits) s = .next (s.passBits p bits) := by
  show execStretchTimeout p bits s = _
  simp only [execStretchTimeout, wire.quiet.beforeEvent, wire.due, Bool.false_eq_true, if_false]

/-- The places of a run at which it holds SCL released and can meet a stretch (R125). -/
theorem Run.canStretch_of {r : Run} (held : r.held = true)
    (phase : r.phase ∈ [.start, .address, .poll, .write, .read] ∨ ∃ after, r.phase = .stop after) :
    r.canStretch = true := by
  rcases phase with listed | ⟨after, stop⟩
  · simp only [List.mem_cons, List.not_mem_nil, or_false] at listed
    rcases listed with e | e | e | e | e <;> simp only [Run.canStretch, e, held]
  · simp only [Run.canStretch, stop]

theorem State.stretchTimeout_running {s : State} {p : PortId} {r : Run} {j : Job}
    (run : (s.port p).state = .running r) (hj : s.job? r.slot = some j) (can : r.canStretch = true) :
    s.stretchTimeout p = (s.noteFail r).finishRun p r (if j.stopping then .cancelled else .stalled)
      (.recovering .run .release) := by
  simp only [State.stretchTimeout, run, can, if_true, State.stopping_of hj]

theorem State.stretchTimeout_recovering {s : State} {p : PortId} {o : Origin} {n : RecoveryStage}
    (state : (s.port p).state = .recovering o n) : s.stretchTimeout p = s.failRecovery p o := by
  simp only [State.stretchTimeout, state]

end Sys2Proof.Machine

open Sys2Proof Sys2Proof.Machine

/-- Settles O44: the stopping field, the line check of a SOLE port, then step 0. -/
theorem theRunStartChecksTheLines : Obligations.TheRunStartChecksTheLines := by
  unfold Obligations.TheRunStartChecksTheLines
  intro s p r j l on hj active high
  have read : (s.readLines p l).job? r.slot = some j := (State.job_readLines s p l r.slot).trans hj
  refine ⟨fun stopping => ?_, fun clear sole low => ?_, fun clear free => ?_⟩
  · rw [exec_runStart_of on, State.beginRun_stopping read stopping, State.readLines_setJob]
    rfl
  · rw [exec_runStart_of on, State.beginRun_low read clear (by rwa [State.port_readLines])
      (by rwa [State.linesOf_readLines]), State.handBack_eq false _ read, State.readLines_setJob,
      State.joinHead, State.setPortState_setPort]
    cases p <;> rfl
  · rw [exec_runStart_of on, State.beginRun_takes read clear
      (by rwa [State.port_readLines, State.linesOf_readLines])]

/-- Settles O46: the port waits until the bus is free, or the START holds it. -/
theorem startHoldsTheBus : Obligations.StartHoldsTheBus := by
  unfold Obligations.StartHoldsTheBus
  intro s p r j st l on runs at_ free started
  have starts : s.completeStart p r st = started := by
    rw [State.completeStart_of st runs.1, runs.2.2]
    rfl
  have reads : (s.readLines p l).completeStart p r st = started.readLines p l := by
    rw [← starts, State.completeStart_of st runs.1, State.completeStart_of st (runs.readLines p l).1,
      runs.2.2, State.readLines_setJob, State.port_readLines]
    cases p <;> rfl
  exact ⟨fun unheld busy => exec_start_waits on runs.1 at_ unheld busy,
    fun unheld idle => (exec_start_free on runs.1 at_ unheld idle).trans (congrArg _ reads),
    fun held => (exec_start_held on runs.1 at_ held l).trans (congrArg _ starts)⟩

/-- Settles O49: the bus is released, and what the STOP was given for follows. -/
theorem stopReleasesTheBus : Obligations.StopReleasesTheBus := by
  unfold Obligations.StopReleasesTheBus
  intro s p r j after on runs free released
  have taken := (exec_stop_of on).trans (congrArg _ (State.completeStop_clear (p := p) runs.clear after))
  have again (r' : Run) (drive : r'.drive = Drive.released) :
      (s.setPort p ((s.port p).afterStop free)).setRun p r' = released r' := by
    rw [State.setRun_eq, State.setPort_setPort, State.setPort_port_same, drive]
    rfl
  refine ⟨fun e => ?_, fun e => ?_, fun e => ?_, fun e => ?_, fun o e outcome => ?_⟩ <;> subst e <;>
    refine taken.trans (congrArg _ ?_)
  · rfl
  · exact again _ rfl
  · exact again _ rfl
  · rfl
  · have failed : (((s.setPort p ((s.port p).afterStop r.free)).job? r.slot).bind
        (fun j => j.run.outcome)).getD .absent = o := by
      rw [State.job_setPort, runs.1, Option.bind_some, outcome, Option.getD_some]
    exact congrArg (fun o => (s.setPort p ((s.port p).afterStop r.free)).finishRun p r.free o .idle) failed

/-- Settles O51: a wait is due at its count. -/
theorem waitsEndAtTheirCount : Obligations.WaitsEndAtTheirCount := by
  unfold Obligations.WaitsEndAtTheirCount
  intro s p r j quiet state hj
  have run := State.run?_eq_some.2 state
  refine ⟨fun target limit gap phase at_ => ?_, fun n phase at_ => ?_, fun n phase at_ => ?_⟩
  · have due : s.pollGapDue r = decide (gap * 64 ≤ r.pauseCount) := by
      rw [State.pollGapDue, phase, State.waitTicks_of hj at_]
      rfl
    show execPollGapEnd p s = _
    simp only [execPollGapEnd, quiet.beforeEvent, run, due, decide_eq_true_eq]
    rfl
  · have due : s.pauseHoldDue r = decide (n ≤ r.pauseCount) := by
      rw [State.pauseHoldDue, phase, State.waitTicks_of hj at_]
      rfl
    show execPauseHoldEnd p s = _
    simp only [execPauseHoldEnd, quiet.beforeEvent, run, due, decide_eq_true_eq]
  · have due : s.pauseFreeDue r = decide (n ≤ r.pauseCount) := by
      rw [State.pauseFreeDue, phase, State.waitTicks_of hj at_]
      rfl
    show execPauseFreeEnd p s = _
    simp only [execPauseFreeEnd, quiet.beforeEvent, run, due, decide_eq_true_eq]

/-- Settles O52: below the limit the readings go to their row; at it the run or the recovery ends. -/
theorem aStretchTimeoutStallsTheRun : Obligations.AStretchTimeoutStallsTheRun := by
  unfold Obligations.AStretchTimeoutStallsTheRun
  intro s p quiet
  refine ⟨fun below => ?_, fun reached bits => ?_⟩
  · have wire : s.OpenWire p := ⟨quiet, decide_eq_false (Nat.not_le.2 below)⟩
    refine ⟨exec_stretchTimeout_open wire [], quiet.takesBitsFirst (fun due => ?_) fun _ bits => ?_⟩
    · exact absurd due (Bool.eq_false_iff.1 wire.due)
    · rw [exec_stretchTimeout_open wire bits, exec_stretchTimeout_open (wire.passBits bits) []]
      rfl
  · have due : s.stretchDue p = true := decide_eq_true reached
    refine ⟨fun o n state => ?_, fun r j state hj held phase => ?_⟩
    · rw [exec_stretchTimeout_due quiet due, State.stretchTimeout_recovering state, State.failRecovery_eq]
      rfl
    · intro here stalled
      rw [exec_stretchTimeout_due quiet due,
        State.stretchTimeout_running state hj (Run.canStretch_of held phase)]
      by_cases first : here
      · rw [State.noteFail_of hj fun written => written.elim first.2 first.1]
        simp only [stalled, first, if_true]
        rfl
      · have written : r.phase = .stop .stopping ∨ r.phase = .stop .failed := by
          by_contra none
          exact first ⟨fun e => none (.inr e), fun e => none (.inl e)⟩
        have same : s.setJob r.slot j = s := State.setJob_self hj
        rw [State.noteFail_written written]
        simp only [stalled, first, if_false]
        exact congrArg (fun t => Host.Outcome.next (State.finishRun t p r _ _)) same.symm

end

section
/-! SUPPORT. What a run does with a whole byte: its record, the stopping field, the step that follows (R132
to R135, R140, R144). -/

namespace Sys2Proof.Machine

/-! ### The rows of a byte -/

section Rows

variable {s : State} {p : PortId} (wire : s.OpenWire p) (bits : List Bool)
include wire

theorem exec_address_of : exec (.address p bits) s = .next (s.onBits p .address bits (State.addressSent p)) := by
  show execAddress p bits s = _
  rw [execAddress, wire.beforeWire]

theorem exec_poll_of : exec (.poll p bits) s = .next (s.onBits p .poll bits (State.attemptSent p)) := by
  show execPoll p bits s = _
  rw [execPoll, wire.beforeWire]

theorem exec_write_of : exec (.write p bits) s = .next (s.onBits p .write bits (State.dataSent p)) := by
  show execWrite p bits s = _
  rw [execWrite, wire.beforeWire]

theorem exec_read_of : exec (.read p bits) s = .next (s.onBits p .read bits (State.dataReceived p)) := by
  show execRead p bits s = _
  rw [execRead, wire.beforeWire]

end Rows

/-- The reading of the ninth bit. -/
theorem ninth_of {all : List Bool} (nine : all.length = 9) :
    ∃ nak, all[8]? = some nak ∧ all.getD 8 true = nak := by
  have lt : 8 < all.length := by omega
  exact ⟨all[8], List.getElem?_eq_getElem lt, by rw [List.getD_eq_getElem?_getD, List.getElem?_eq_getElem lt]; rfl⟩

/-! ### A run between two bytes -/

/-- A run with no byte in progress (R127). -/
def Run.between (r : Run) : Run := { r with bits := [] }

/-- A job whose byte was refused: position and outcome are written (R140). -/
def Job.naked (j : Job) (o : JobOutcome) : Job :=
  { j with run := { j.run.failHere with outcome := some o } }

/-- A job's run, one byte of its step further (R134, R135). -/
def Job.byteOn (j : Job) : Job := { j with run := { j.run with curByte := j.run.curByte + 1 } }

/-- A port at the beginning of a STOP: both lines shown low (R126; log 29). -/
def Port.stopping (x : Port) (r : Run) (after : AfterStop) : Port :=
  { x with state := .running { r with phase := .stop after }, drive := Drive.bothLow, stretch := 0 }

section Between

variable {s : State} {p : PortId} {r : Run} {j : Job} (hj : s.job? r.slot = some j) (x : Port)

theorem State.sendByte_between {b : Byte} (sends : s.byteToSend r = some b) :
    (s.setPort p x).sendByte p r.between = s.setPort p { x with sent := some b } := by
  have same : (s.setPort p x).byteToSend r.between = some b := by
    rw [State.byteToSend_setPort, Run.between, State.byteToSend_bits, sends]
  rw [State.sendByte_of same, State.setPort_port_same, State.setPort_setPort]

include hj

theorem State.stopHere_held (held : r.held = true) :
    (s.setPort p x).stopHere p r = (s.setJob r.slot j.failHere).setPort p (x.stopping r .stopping) := by
  have here : (s.setPort p x).job? r.slot = some j := (State.job_setPort s p x r.slot).trans hj
  unfold State.stopHere
  dsimp only
  rw [State.modifyRecord_failHere here, State.setJob_setPort, if_pos held, State.setRun_eq,
    State.setPort_port_same, State.setPort_setPort]
  rfl

theorem State.failByNak_between (o : JobOutcome) :
    (s.setPort p x).failByNak p r o = (s.setJob r.slot (j.naked o)).setPort p (x.stopping r .failed) := by
  have here : (s.setPort p x).job? r.slot = some j := (State.job_setPort s p x r.slot).trans hj
  rw [State.failByNak, State.modifyRecord_of _ here, State.setJob_setPort, State.setRun_eq,
    State.setPort_port_same, State.setPort_setPort]
  rfl

/-- The step goes on to its next byte, or the next step follows the last. -/
theorem State.nextByte_between {n : Nat}
    (at_ : j.steps[j.run.curStep]? = some (.write n) ∨ j.steps[j.run.curStep]? = some (.read n)) :
    (s.setPort p x).nextByte p r =
      if j.run.curByte + 1 < n
      then (s.setJob r.slot j.byteOn).setPort p
        { x with state := .running r, drive := r.drive, stretch := 0 }
      else (s.setPort p x).nextStep p r := by
  have here : (s.setPort p x).job? r.slot = some j := (State.job_setPort s p x r.slot).trans hj
  have byte : (s.setPort p x).curByte r = j.run.curByte := by simp only [State.curByte, here]
  have count : (s.setPort p x).stepCount r = n := by
    rcases at_ with e | e <;> simp only [State.stepCount, State.stepOf, here, Job.curStep?, e]
  rw [State.nextByte, byte, count, State.modifyRecord_of _ here, State.setJob_setPort, State.setRun_eq,
    State.setPort_port_same, State.setPort_setPort]
  rfl

/-! ### A whole byte -/

variable {b : Byte} (sends : s.byteToSend r = some b) (nak : Bool)

omit hj in
theorem Run.committed_ack (r : Run) : ({ r with committed := r.committed || !false } : Run) =
    { r with committed := true } := by rw [Bool.not_false, Bool.or_true]

omit hj in
theorem Run.committed_nak (r : Run) : ({ r with committed := r.committed || !true } : Run) = r := by
  rw [Bool.not_true, Bool.or_false]

include sends

/-- A whole address byte of an ADDRESS (R132, R144). -/
theorem State.addressSent_between : State.addressSent p (s.setPort p x) r.between nak =
    let u := s.setPort p { x with sent := some b }
    let r1 : Run := { r.between with committed := r.committed || !nak }
    if j.stopping then u.stopHere p r1
    else if nak then u.failByNak p r1 .absent else u.nextStep p r1 := by
  unfold State.addressSent
  rw [State.sendByte_between x sends]
  have stops : (s.setPort p { x with sent := some b }).stopping r.between.slot = j.stopping :=
    (State.stopping_setPort ..).trans (State.stopping_of hj)
  simp only [stops]
  rfl

/-- A whole address byte of a POLL attempt (R133, R144). -/
theorem State.attemptSent_between {target : BitVec 7} {limit gap : Nat}
    (at_ : j.steps[j.run.curStep]? = some (.poll target limit gap)) :
    State.attemptSent p (s.setPort p x) r.between nak =
      let u := s.setPort p { x with sent := some b }
      let r1 : Run := { r.between with committed := r.committed || !nak }
      if j.stopping then u.stopHere p r1
      else if !nak then u.nextStep p r1
      else if r.attempts < limit then u.setRun p { r1 with phase := .stop .pollGap }
      else u.failByNak p r1 .pollLimit := by
  unfold State.attemptSent
  rw [State.sendByte_between x sends]
  have stops : (s.setPort p { x with sent := some b }).stopping r.between.slot = j.stopping :=
    (State.stopping_setPort ..).trans (State.stopping_of hj)
  have here : (s.setPort p { x with sent := some b }).job? r.between.slot = some j :=
    (State.job_setPort ..).trans hj
  have most : (s.setPort p { x with sent := some b }).pollLimit r.between = limit := by
    simp only [State.pollLimit, State.stepOf, here, Job.curStep?, at_]
  simp only [stops, most]
  rfl

/-- A whole write data byte (R134, R144). -/
theorem State.dataSent_between : State.dataSent p (s.setPort p x) r.between nak =
    let u := s.setPort p { x with sent := some b }
    let r1 : Run := if nak then r.between
      else { r.between with committed := true, writeCursor := r.writeCursor + 1 }
    if j.stopping then u.stopHere p r1
    else if nak then u.failByNak p r1 .refused else u.nextByte p r1 := by
  unfold State.dataSent
  rw [State.sendByte_between x sends]
  have stops : (s.setPort p { x with sent := some b }).stopping r.between.slot = j.stopping :=
    (State.stopping_setPort ..).trans (State.stopping_of hj)
  simp only [stops]
  rfl

omit sends in
/-- The ninth bit of a read byte given (R135, R144). -/
theorem State.dataReceived_between {naked : Bool} (rule : j.readNak = naked) :
    State.dataReceived p (s.setPort p x) r.between nak =
      let u := s.setPort p { x with gave := some (if naked then .nak else .ack) }
      let r1 : Run := { r.between with committed := r.committed || !naked }
      if j.stopping then u.stopHere p r1 else u.nextByte p r1 := by
  have here : (s.setPort p x).job? r.between.slot = some j := (State.job_setPort ..).trans hj
  have given : ((s.setPort p x).job? r.between.slot).any Job.readNak = naked := by
    rw [here, Option.any_some, rule]
  unfold State.dataReceived
  dsimp only
  rw [given, State.giveNinth_eq, State.setPort_port_same, State.setPort_setPort]
  have stops : (s.setPort p { x with gave := some (if naked then .nak else .ack) }).stopping r.between.slot =
      j.stopping := (State.stopping_setPort ..).trans (State.stopping_of hj)
  simp only [stops]
  rfl

end Between

end Sys2Proof.Machine

open Sys2Proof Sys2Proof.Machine

/-- Settles O47: the bits of the byte, then what its acknowledge does. -/
theorem addressAndPollActOnTheirAcknowledge : Obligations.AddressAndPollActOnTheirAcknowledge := by
  unfold Obligations.AddressAndPollActOnTheirAcknowledge
  intro s p r j bits runs some_ x all between after goes fails sends
  have hj : s.job? r.between.slot = some j := runs.1
  have stands (o : JobOutcome) (b : Byte) :
      (s.setPort p { x.withBits r all (pullsSent b) with
        state := .running between, sent := some b }).failByNak p r.between o = fails b o := by
    rw [State.failByNak_between hj]
    cases p <;> rfl
  refine ⟨fun target dir on at_ => ?_, fun target limit gap on at_ => ?_⟩
  · intro b wins
    have byte : s.byteToSend r = some b := (State.byteToSend_address on.phase runs.1 at_).trans
      (Step.addressByte_address target dir)
    obtain ⟨few, nine⟩ := State.onBits_sent (State.addressSent p) on.state on.phase byte some_ wins
    rw [exec_address_of on.wire]
    refine ⟨fun lt => congrArg _ (few lt), fun eq => congrArg _ ((nine eq).trans ?_)⟩
    obtain ⟨nak, ninth, e⟩ := ninth_of eq
    rw [e, ninth]
    refine (State.addressSent_between runs.1 _ byte nak).trans ?_
    cases nak with
    | false =>
      simp only [runs.2.2, Bool.false_eq_true, if_false, Bool.not_false, Bool.or_true, if_true]
      rfl
    | true =>
      simp only [runs.2.2, Bool.false_eq_true, if_false, if_true, Bool.not_true, Bool.or_false,
        Option.some.injEq, Bool.true_eq_false]
      exact stands .absent b
  · intro b wins
    have byte : s.byteToSend r = some b := (State.byteToSend_poll on.phase runs.1 at_).trans
      (Step.addressByte_poll target limit gap)
    obtain ⟨few, nine⟩ := State.onBits_sent (State.attemptSent p) on.state on.phase byte some_ wins
    rw [exec_poll_of on.wire]
    refine ⟨fun lt => congrArg _ (few lt), fun eq => congrArg _ ((nine eq).trans ?_)⟩
    obtain ⟨nak, ninth, e⟩ := ninth_of eq
    rw [e, ninth]
    refine (State.attemptSent_between runs.1 _ byte nak at_).trans ?_
    cases nak with
    | false =>
      simp only [runs.2.2, Bool.false_eq_true, if_false, Bool.not_false, Bool.or_true, if_true]
      rfl
    | true =>
      simp only [runs.2.2, Bool.false_eq_true, if_false, Bool.not_true, Bool.or_false,
        Option.some.injEq, Bool.true_eq_false]
      split
      · rw [State.setRun_eq, State.setPort_port_same, State.setPort_setPort]
        rfl
      · exact stands .pollLimit b

end

section
/-! SUPPORT. The continuation of a READ, and the bytes of a WRITE and a READ (R32, R45, R134, R135). -/

namespace Sys2Proof.Machine

/-! ### The continuation rule -/

/-- A list of steps whose first that is neither a MARK nor a PAUSE HOLD is a READ (R32). -/
def LeadsToRead (l : List Step) : Prop :=
  ∃ k count : Nat, l[k]? = some (Step.read count) ∧
    ∀ i, i < k → l[i]? = some Step.mark ∨ ∃ ticks, l[i]? = some (Step.pause .hold ticks)

theorem leadsToRead_cons (st : Step) (rest : List Step) : LeadsToRead (st :: rest) ↔
    (∃ count, st = .read count) ∨ (st = .mark ∨ ∃ ticks, st = .pause .hold ticks) ∧ LeadsToRead rest := by
  constructor
  · rintro ⟨k, count, read, passed⟩
    cases k with
    | zero => exact .inl ⟨count, Option.some.inj read⟩
    | succ k =>
      refine .inr ⟨?_, k, count, read, fun i lt => passed (i + 1) (Nat.succ_lt_succ lt)⟩
      rcases passed 0 (Nat.zero_lt_succ k) with e | ⟨ticks, e⟩
      · exact .inl (Option.some.inj e)
      · exact .inr ⟨ticks, Option.some.inj e⟩
  · rintro (⟨count, rfl⟩ | ⟨first, k, count, read, passed⟩)
    · exact ⟨0, count, rfl, fun i lt => absurd lt (Nat.not_lt_zero i)⟩
    · refine ⟨k + 1, count, read, fun i lt => ?_⟩
      cases i with
      | zero =>
        rcases first with rfl | ⟨ticks, rfl⟩
        · exact .inl rfl
        · exact .inr ⟨ticks, rfl⟩
      | succ i => exact passed i (Nat.lt_of_succ_lt_succ lt)

theorem continuedBy_iff : ∀ l : List Step, continuedBy l = true ↔ LeadsToRead l
  | [] => ⟨fun h => Bool.noConfusion h, fun ⟨_, _, read, _⟩ => Option.noConfusion rfl (heq_of_eq read)⟩
  | .mark :: rest => by
    rw [leadsToRead_cons, ← continuedBy_iff rest, continuedBy]
    simp
  | .pause .hold ticks :: rest => by
    rw [leadsToRead_cons, ← continuedBy_iff rest, continuedBy]
    simp
  | .read count :: rest => by
    rw [leadsToRead_cons, continuedBy]
    simp
  | .address target dir :: rest => by simp [leadsToRead_cons, continuedBy]
  | .poll target limit gap :: rest => by simp [leadsToRead_cons, continuedBy]
  | .write count :: rest => by simp [leadsToRead_cons, continuedBy]
  | .stop :: rest => by simp [leadsToRead_cons, continuedBy]
  | .pause .free ticks :: rest => by simp [leadsToRead_cons, continuedBy]

/-- The steps after one, counted in the whole list. -/
theorem leadsToRead_drop (l : List Step) (c : Nat) : LeadsToRead (l.drop (c + 1)) ↔
    ∃ k count, c < k ∧ l[k]? = some (.read count) ∧
      ∀ i, c < i → i < k → l[i]? = some .mark ∨ ∃ ticks, l[i]? = some (.pause .hold ticks) := by
  constructor
  · rintro ⟨k, count, read, passed⟩
    refine ⟨c + 1 + k, count, by omega, by rwa [List.getElem?_drop] at read, fun i lo hi => ?_⟩
    have at_ := passed (i - (c + 1)) (by omega)
    rwa [List.getElem?_drop, show c + 1 + (i - (c + 1)) = i by omega] at at_
  · rintro ⟨k, count, lo, read, passed⟩
    refine ⟨k - (c + 1), count, ?_, fun i lt => ?_⟩
    · rwa [List.getElem?_drop, show c + 1 + (k - (c + 1)) = k by omega]
    · rw [List.getElem?_drop]
      exact passed (c + 1 + i) (by omega) (by omega)

/-- The NAK rule of a READ whose job's stopping field is clear (R32, R135). -/
theorem Job.readNak_iff {j : Job} {n : Nat} (clear : j.stopping = false)
    (at_ : j.steps[j.run.curStep]? = some (.read n)) : j.readNak = true ↔
      ¬j.run.curByte + 1 < n ∧ ¬∃ k count, j.run.curStep < k ∧ j.steps[k]? = some (.read count) ∧
        ∀ i, j.run.curStep < i → i < k →
          j.steps[i]? = some .mark ∨ ∃ ticks, j.steps[i]? = some (.pause .hold ticks) := by
  rw [← leadsToRead_drop, ← continuedBy_iff, Bool.not_eq_true, Nat.not_lt]
  simp only [Job.readNak, clear, Bool.false_or, Job.curStep?, at_, Bool.and_eq_true, decide_eq_true_eq,
    Bool.not_eq_true']

/-! ### A job and its port written together -/

theorem State.write_job_and_port (s : State) (p : PortId) (y : Port) (slots : List (Option Job)) (r : Run)
    (d : Drive) :
    let u : State := { s.setPort p y with slots := slots }
    u.setPort p { u.port p with state := .running r, drive := d } =
      ({ s with slots := slots } : State).setPort p { y with state := .running r, drive := d } := by
  cases p <;> rfl

theorem Run.drive_inByte {r : Run} (phase : r.phase = .write ∨ r.phase = .read) : r.drive = Drive.holding := by
  rcases phase with e | e <;> simp only [Run.drive, e]

/-! ### A read byte stored -/

/-- A run's record and the pool with the eighth bit of a read byte, where it comes with the bits (R45,
R135). -/
def State.eighthTaken (s : State) (r : Run) (j : Job) (b : Byte) (eighth : Prop) [Decidable eighth] : State :=
  { s with
    slots := s.slots.set r.slot (some { j with run := { j.run with
      received := if eighth then r.readCursor + 1 else j.run.received } })
    pool := if eighth then Memory.write s.pool (poolAddr j.blocks (j.writeLen + r.readCursor)) b else s.pool }

theorem State.eighthTaken_eq {s : State} {r : Run} {j : Job} (b : Byte) (eighth : Prop) [Decidable eighth]
    (hj : s.job? r.slot = some j) :
    (if eighth then s.storeReadByte r b else s) = s.eighthTaken r j b eighth := by
  unfold State.eighthTaken
  split
  · exact State.storeReadByte_of b hj
  · exact (State.setJob_self hj).symm

/-- The job of a run, the received count risen with the eighth bit. -/
def Job.counted (j : Job) (n : Nat) : Job := { j with run := { j.run with received := n } }

theorem State.job_eighthTaken {s : State} {r : Run} {j : Job} (b : Byte) (eighth : Prop) [Decidable eighth]
    (hj : s.job? r.slot = some j) : (s.eighthTaken r j b eighth).job? r.slot =
      some (j.counted (if eighth then r.readCursor + 1 else j.run.received)) :=
  State.job_setJob_same s _ (State.job_lt hj)

end Sys2Proof.Machine

open Sys2Proof Sys2Proof.Machine

/-- Settles O48: the bits of the byte move the pool and the cursors, then the byte goes on. -/
theorem bytesMoveTheCursors : Obligations.BytesMoveTheCursors := by
  unfold Obligations.BytesMoveTheCursors
  intro s p r j bits runs some_ x all withRun withRecord
  refine ⟨fun n on at_ => ?_, fun n b naked on at_ => ?_⟩
  · intro b between sent acked wins
    have byte : s.byteToSend r = some b := State.byteToSend_write on.phase runs.1
    obtain ⟨few, nine⟩ := State.onBits_sent (State.dataSent p) on.state on.phase byte some_ wins
    have whole (nak : Bool) (eq : all.length = 9) (ninth : all[8]? = some nak) :=
      (nine eq).trans ((congrArg _ (show all.getD 8 true = nak by
        rw [List.getD_eq_getElem?_getD, ninth, Option.getD_some])).trans
          (State.dataSent_between runs.1 { x.withBits r all (pullsSent b) with state := .running between }
            byte nak))
    rw [exec_write_of on.wire]
    refine ⟨fun lt => congrArg _ (few lt), fun eq ninth => congrArg _ ((whole false eq ninth).trans ?_),
      fun eq ninth => congrArg _ ((whole true eq ninth).trans ?_)⟩
    · simp only [runs.2.2, Bool.false_eq_true, if_false]
      refine (State.nextByte_between (j := j) (r := acked) runs.1 _ (.inl at_)).trans ?_
      split
      · rw [Run.drive_inByte (r := acked) (.inl on.phase)]
        exact (State.write_job_and_port s p _ _ acked _).symm
      · rfl
    · simp only [runs.2.2, Bool.false_eq_true, if_false, if_true]
      refine (State.failByNak_between (j := j) (r := r.between) runs.1 _ .refused).trans ?_
      exact (State.write_job_and_port s p _ _ { between with phase := .stop .failed } _).symm
  · intro more continued rule spells wins eighth addr record stored r' between given done
    have nak : j.readNak = naked := Bool.eq_iff_iff.2 ((Job.readNak_iff runs.2.2 at_).trans rule.symm)
    have any : (s.job? r.slot).any Job.readNak = naked := by rw [runs.1, Option.any_some, nak]
    have took : (if eighth then s.storeReadByte r b else s) = stored := State.eighthTaken_eq b eighth runs.1
    have job : stored.job? r.slot = some { j with run := record } := State.job_eighthTaken b eighth runs.1
    obtain ⟨few, nine⟩ := State.onBits_received (State.dataReceived p) on.state on.phase any some_ spells wins
    rw [took] at few nine
    rw [exec_read_of on.wire]
    refine ⟨fun lt => congrArg _ (few lt), fun eq => congrArg _ ((nine eq).trans ?_), fun law at8 => ?_⟩
    · refine (State.dataReceived_between (r := r') job _ _ nak).trans ?_
      simp only [runs.2.2, Bool.false_eq_true, if_false]
      refine (State.nextByte_between (r := done) job _ (.inr at_)).trans ?_
      have again : stored.setJob r.slot (Job.byteOn { j with run := record }) =
          { stored with slots := s.slots.set r.slot (some { j with run := { record with
            curByte := j.run.curByte + 1 } }) } := congrArg (fun l => ({ stored with slots := l } : State))
              (List.set_set _)
      split
      · rw [Run.drive_inByte (r := done) (.inr on.phase), again]
        exact (State.write_job_and_port stored p _ _ done _).symm
      · rfl
    · have pool : stored.pool = Memory.write s.pool addr b := if_pos at8
      rw [pool]
      exact ⟨Memory.read_write_same addr b law, fun a other => Memory.read_write_other b law other⟩

end

section
/-! SUPPORT. A set stopping field at the stop points of a run (R132 to R136, R144). -/

namespace Sys2Proof.Machine

/-! ### The byte a run sends -/

theorem State.Sends.byte {s : State} {r : Run} {j : Job} {b : Byte} (h : s.Sends r j b)
    (hj : s.job? r.slot = some j) : s.byteToSend r = some b := by
  rcases h with ⟨target, dir, phase, at_, rfl⟩ | ⟨target, limit, gap, phase, at_, rfl⟩ | ⟨phase, rfl⟩
  · exact (State.byteToSend_address phase hj at_).trans (Step.addressByte_address target dir)
  · exact (State.byteToSend_poll phase hj at_).trans (Step.addressByte_poll target limit gap)
  · exact State.byteToSend_write phase hj

section Stops

variable {s : State} {p : PortId} {r : Run} {j : Job} (hj : s.job? r.slot = some j)
include hj

/-- The row of a byte that is sent, whose ninth bit is a stop point of the run. -/
theorem exec_stoppingByte {c : Instr} {whole : State → Run → Bool → State} {phase : Phase} {b : Byte}
    {bits : List Bool} (after : Bool → Run) (on : s.OnWire p r phase) (byte : s.byteToSend r = some b)
    (some_ : bits ≠ []) (wins : (s.port p).Wins r.bits.length (r.bits ++ bits)
      (fun k => k < 8 ∧ b.getLsbD (7 - k) = true))
    (row : exec c s = .next (s.onBits p phase bits whole))
    (keeps : ∀ nak, (after nak).slot = r.slot ∧ (after nak).held = true)
    (stops : ∀ nak x, whole (s.setPort p x) r.between nak =
      (s.setPort p { x with sent := some b }).stopHere p (after nak)) :
    ((r.bits ++ bits).length < 9 →
      exec c s = .next (s.setPort p ((s.port p).withBits r (r.bits ++ bits) (pullsSent b)))) ∧
    ∀ nak, (r.bits ++ bits).length = 9 → (r.bits ++ bits)[8]? = some nak → exec c s = .next
      ((s.setJob r.slot j.failHere).setPort p
        (Port.stopping { (s.port p).withBits r (r.bits ++ bits) (pullsSent b) with sent := some b }
          (after nak) .stopping)) := by
  obtain ⟨few, nine⟩ := State.onBits_sent whole on.state on.phase byte some_ wins
  refine ⟨fun lt => row.trans (congrArg _ (few lt)), fun nak eq ninth =>
    row.trans (congrArg _ ((nine eq).trans ?_))⟩
  obtain ⟨slot, held⟩ := keeps nak
  have read : (r.bits ++ bits).getD 8 true = nak := by
    rw [List.getD_eq_getElem?_getD, ninth, Option.getD_some]
  refine (congrArg (whole _ _) read).trans ((stops nak _).trans ?_)
  have halted := State.stopHere_held (p := p) (by rw [slot]; exact hj)
    { (s.port p).withBits r (r.bits ++ bits) (pullsSent b) with
      state := .running r.between, sent := some b } held
  rw [slot] at halted
  exact halted

/-- A START that meets a set stopping field holds the bus for its STOP (R131, R144). -/
theorem State.completeStart_stopping (stopping : j.stopping = true) (st : Step) :
    s.completeStart p r st = (s.setJob r.slot (j.startedAt r.started s.time).failHere).setPort p
      (((s.port p).afterStart r st).stopping (r.afterStart st) .stopping) := by
  rw [State.completeStart_of st hj]
  dsimp only
  rw [if_pos stopping]
  refine (State.stopHere_held (r := r.afterStart st)
    (State.job_setJob_same s _ (State.job_lt hj)) _ rfl).trans ?_
  exact congrArg (fun t => State.setPort t p _) (State.setJob_setJob ..)

/-- A STOP that meets a set stopping field ends the run, at the position written before where there is one
(R144, R145). -/
theorem State.completeStop_stopping {after : AfterStop} (stopping : j.stopping = true)
    (phase : r.phase = .stop after) : s.completeStop p r after =
      ((s.setJob r.slot (if after = .failed ∨ after = .stopping then j else j.failHere)).setPort p
        ((s.port p).afterStop r.free)).finishRun p r.free .cancelled .idle := by
  have here (x : Port) : (s.setPort p x).job? r.slot = some j := (State.job_setPort ..).trans hj
  unfold State.completeStop
  dsimp only
  generalize e : (s.trackFree p).releaseBus p { r with held := false } = t
  obtain rfl : t = s.setPort p ((s.port p).afterStop r.free) := e.symm.trans (State.freeBus_eq s p r.free)
  rw [State.stopping_setPort, State.stopping_of hj, if_pos stopping]
  refine congrArg (fun t => State.finishRun t p r.free .cancelled .idle) ?_
  by_cases written : after = .failed ∨ after = .stopping
  · rw [if_pos written, State.setJob_self hj]
    exact State.noteFail_written (written.symm.imp (fun e => phase.trans (congrArg _ e))
      (fun e => phase.trans (congrArg _ e)))
  · rw [if_neg written, ← State.setJob_setPort]
    refine State.noteFail_of (here _) fun c => written ?_
    rw [phase] at c
    exact c.symm.imp Phase.stop.inj Phase.stop.inj

end Stops

/-- A run goes to the STOP of the stopping sequence, whatever its port was. -/
theorem State.stops_setPort (s : State) (p : PortId) (x : Port) (r : Run) :
    (s.setPort p x).setPort p { (s.setPort p x).port p with
      state := .running { r with phase := .stop .stopping }, drive := Drive.bothLow, stretch := 0 } =
    s.setPort p (x.stopping r .stopping) := by
  rw [State.setPort_setPort, State.setPort_port_same]
  rfl

end Sys2Proof.Machine

open Sys2Proof Sys2Proof.Machine

/-- Settles O50: each stop point, and the STOP that ends the run there. -/
theorem aSetStoppingFieldEndsTheRun : Obligations.ASetStoppingFieldEndsTheRun := by
  unfold Obligations.ASetStoppingFieldEndsTheRun
  intro s p r j hj active stopping x stops withRecord here
  refine ⟨fun b bits sends on held some_ => ?_, fun b bits held on some_ => ?_, fun st l on at_ => ?_,
    fun after on => ?_⟩
  · intro all between c ack wins
    have byte := sends.byte hj
    have acked (nak : Bool) (ninth : all[8]? = some nak) : ack = !nak := by
      simp only [ack, ninth]
      cases nak <;> rfl
    have address (nak : Bool) : r.phase ≠ .write → all[8]? = some nak →
        ({ r.between with committed := r.committed || !nak } : Run) =
          { between with
            committed := r.committed || ack
            writeCursor := if r.phase = .write ∧ ack = true then r.writeCursor + 1
              else r.writeCursor } := by
      intro phase ninth
      rw [acked nak ninth, if_neg fun c => phase c.1]
      rfl
    rcases sends with ⟨target, dir, phase, at_, -⟩ | ⟨target, limit, gap, phase, at_, -⟩ | ⟨phase, -⟩
    · have command : c = .address p bits := by simp only [c, phase]
      obtain ⟨few, nine⟩ := exec_stoppingByte hj (phase := r.phase)
        (fun nak => { r.between with committed := r.committed || !nak }) on byte some_ wins
        (by rw [phase]; exact exec_address_of on.wire bits) (fun nak => ⟨rfl, held⟩)
        (fun nak y => (State.addressSent_between hj y byte nak).trans (if_pos stopping))
      rw [command]
      refine ⟨few, fun eq => ?_⟩
      obtain ⟨nak, ninth, -⟩ := ninth_of eq
      rw [nine nak eq ninth, address nak (by rw [phase]; exact nofun) ninth]
      exact congrArg _ (State.stops_setPort ..).symm
    · have command : c = .poll p bits := by simp only [c, phase]
      obtain ⟨few, nine⟩ := exec_stoppingByte hj (phase := r.phase)
        (fun nak => { r.between with committed := r.committed || !nak }) on byte some_ wins
        (by rw [phase]; exact exec_poll_of on.wire bits) (fun nak => ⟨rfl, held⟩)
        (fun nak y => (State.attemptSent_between hj y byte nak at_).trans (if_pos stopping))
      rw [command]
      refine ⟨few, fun eq => ?_⟩
      obtain ⟨nak, ninth, -⟩ := ninth_of eq
      rw [nine nak eq ninth, address nak (by rw [phase]; exact nofun) ninth]
      exact congrArg _ (State.stops_setPort ..).symm
    · have command : c = .write p bits := by simp only [c, phase]
      obtain ⟨few, nine⟩ := exec_stoppingByte hj (phase := r.phase)
        (fun nak => if nak then r.between
          else { r.between with committed := true, writeCursor := r.writeCursor + 1 }) on byte some_ wins
        (by rw [phase]; exact exec_write_of on.wire bits)
        (fun nak => by cases nak <;> exact ⟨rfl, held⟩)
        (fun nak y => (State.dataSent_between hj y byte nak).trans (if_pos stopping))
      rw [command]
      refine ⟨few, fun eq => ?_⟩
      obtain ⟨nak, ninth, -⟩ := ninth_of eq
      have run : (if nak then r.between
          else { r.between with committed := true, writeCursor := r.writeCursor + 1 } : Run) =
          { between with
            committed := r.committed || ack
            writeCursor := if r.phase = .write ∧ ack = true then r.writeCursor + 1
              else r.writeCursor } := by
        rw [acked nak ninth]
        cases nak with
        | false =>
          simp only [Bool.false_eq_true, if_false, Bool.not_false, Bool.or_true, phase, and_self, if_true]
          rfl
        | true =>
          simp only [if_true, Bool.not_true, Bool.or_false, Bool.false_eq_true, and_false, if_false]
          rfl
      rw [nine nak eq ninth, run]
      exact congrArg _ (State.stops_setPort ..).symm
  · intro all spells wins eighth received pool r'
    have nak : j.readNak = true := by rw [Job.readNak, stopping, Bool.true_or]
    have any : (s.job? r.slot).any Job.readNak = true := by rw [hj, Option.any_some, nak]
    have took := State.eighthTaken_eq b eighth hj
    have job := State.job_eighthTaken b eighth hj
    obtain ⟨few, nine⟩ := State.onBits_received (State.dataReceived p) on.state on.phase any some_ spells
      (fun shared k lo at8 => wins shared k lo at8.1)
    rw [took] at few nine
    rw [exec_read_of on.wire]
    refine ⟨fun lt => congrArg _ (few lt), fun eq => congrArg _ ((nine eq).trans ?_)⟩
    refine (State.dataReceived_between (r := r') job _ _ nak).trans ((if_pos stopping).trans ?_)
    rw [if_pos rfl]
    refine (State.stopHere_held (r := { r'.between with committed := r'.committed || !true }) job _
      held).trans ?_
    rw [Bool.not_true, Bool.or_false]
    refine Eq.trans ?_ (State.stops_setPort ..).symm
    exact congrArg (fun slots => State.setPort { s.eighthTaken r j b eighth with slots := slots } p _)
      (List.set_set _)
  · intro stopped
    have starts : s.completeStart p r st = stopped := by
      rw [State.completeStart_stopping hj stopping]
      simp only [stopped, stops, State.trackStart_eq, State.setPort_port_same, State.setPort_setPort]
      cases p <;> rfl
    have reads : (s.readLines p l).completeStart p r st = stopped.readLines p l := by
      have time : (s.readLines p l).time = s.time := by cases p <;> rfl
      rw [← starts, State.completeStart_stopping hj stopping,
        State.completeStart_stopping ((State.job_readLines s p l r.slot).trans hj) stopping,
        State.readLines_setJob, State.port_readLines, time, State.readLines_setPort]
    exact ⟨fun held => (exec_start_held on hj at_ held l).trans (congrArg _ starts),
      fun unheld scl sda free => (exec_start_free on hj at_ unheld ⟨scl, sda, free⟩).trans
        (congrArg _ reads)⟩
  · rw [exec_stop_of on, State.completeStop_stopping hj stopping on.phase]
    refine congrArg (fun t => Host.Outcome.next (State.finishRun t p r.free .cancelled .idle)) ?_
    simp only [State.trackFree_eq, State.setPort_port_same, State.setPort_setPort, withRecord]
    split <;> rfl

end

section
/-! SUPPORT. Where arbitration is lost, and what a loss does (R129, R142, R143). -/

namespace Sys2Proof.Machine

/-! ### The bit a run stands in -/

theorem State.bitContested_read {s : State} {r : Run} (phase : r.phase = .read) :
    s.bitContested r = (decide (r.bits.length = 8) && (s.job? r.slot).any Job.readNak) := by
  by_cases few : r.bits.length < 9
  · exact State.bitContested_given phase few
  · have other : (r.bits.length == 8) = false := beq_eq_false_iff_ne.2 (by omega)
    have e : decide (r.bits.length = 8) = false := other
    rw [State.bitContested, phase, other, e, Bool.false_and]
    simp only [beq_self_eq_true, if_true, Bool.and_false]

theorem State.contested_inByte {s : State} {r : Run} (inByte : r.phase.inByte = true) :
    s.contested r = s.bitContested r := by
  cases phase : r.phase <;> simp only [State.contested, phase] <;> rw [phase] at inByte <;> cases inByte

theorem State.Sends.inByte {s : State} {r : Run} {j : Job} {b : Byte} (h : s.Sends r j b) :
    r.phase.inByte = true := by
  rcases h with ⟨_, _, phase, -⟩ | ⟨_, _, _, phase, -⟩ | ⟨phase, -⟩ <;> rw [phase] <;> rfl

theorem State.Sends.contested {s : State} {r : Run} {j : Job} {b : Byte} (h : s.Sends r j b)
    (hj : s.job? r.slot = some j) :
    s.contested r = (decide (r.bits.length < 8) && b.getLsbD (7 - r.bits.length)) :=
  (State.contested_inByte h.inByte).trans (State.bitContested_sent (h.byte hj))

theorem State.contested_read {s : State} {r : Run} {j : Job} (phase : r.phase = .read)
    (hj : s.job? r.slot = some j) : s.contested r = (decide (r.bits.length = 8) && j.readNak) := by
  rw [State.contested_inByte (by rw [phase]; rfl), State.bitContested_read phase, hj, Option.any_some]

/-! ### Bits that come to a contested bit -/

/-- From `s` to `t`, bits of the byte that run `r` of port `p` stands in have been taken: it stands in the
same byte as `r'`. -/
structure State.SameByte (s : State) (p : PortId) (r : Run) (t : State) (r' : Run) : Prop where
  state    : (t.port p).state = .running r'
  phase    : r'.phase = r.phase
  settings : (t.port p).settings = (s.port p).settings
  sends    : t.byteToSend r' = s.byteToSend r
  naked    : (t.job? r'.slot).any Job.readNak = (s.job? r.slot).any Job.readNak

theorem State.SameByte.trans {s t u : State} {p : PortId} {r r' r'' : Run} (h : s.SameByte p r t r')
    (k : t.SameByte p r' u r'') : s.SameByte p r u r'' :=
  ⟨k.state, k.phase.trans h.phase, k.settings.trans h.settings, k.sends.trans h.sends,
    k.naked.trans h.naked⟩

theorem State.byteToSend_read {s : State} {r : Run} (phase : r.phase = .read) : s.byteToSend r = none := by
  simp only [State.byteToSend, phase]

theorem State.takeBit_sameByte (s : State) (p : PortId) (r : Run) (high : Bool) :
    ∃ r', s.SameByte p r (s.takeBit p r high) r' ∧ r'.bits = r.bits ++ [high] := by
  unfold State.takeBit State.storeAtEighth
  split
  · next eighth =>
    have read : r.phase = .read := eq_of_beq (Bool.and_eq_true_iff.1 eighth).1
    refine ⟨{ r with bits := r.bits ++ [high], readCursor := r.readCursor + 1 }, ⟨?_, rfl, ?_, ?_, ?_⟩, rfl⟩
    · rw [State.setPort_port_same]
    · rw [State.setPort_port_same, State.storeReadByte_port]
      simp only [State.openBit, State.closeBit, State.setPort_port_same]
    · exact Eq.trans (State.byteToSend_read read) (State.byteToSend_read read).symm
    · rw [State.job_setPort]
      refine (State.naked_storeReadByte _ { r with bits := r.bits ++ [high] } _).trans ?_
      simp only [State.openBit, State.closeBit, State.job_setPort]
  · refine ⟨{ r with bits := r.bits ++ [high] }, ⟨?_, rfl, ?_, ?_, ?_⟩, rfl⟩
    · simp only [State.closeBit, State.setPort_port_same]
    · simp only [State.openBit, State.closeBit, State.setPort_port_same]
    · simp only [State.openBit, State.closeBit, State.byteToSend_setPort, State.byteToSend_bits]
    · simp only [State.openBit, State.closeBit, State.job_setPort]

/-- Bits taken come to the end of their list, to the end of the byte, or to a bit in which arbitration is
lost. -/
theorem takeBits_sameByte {p : PortId} : ∀ (bits : List Bool) (s : State) (r : Run),
    (s.port p).state = .running r → ∃ r', s.SameByte p r (takeBits p bits s) r' ∧
      (r'.bits = r.bits ++ bits ∨ ¬r'.bits.length < 9 ∨
        ((takeBits p bits s).port p).settings.mode = .shared ∧
          (takeBits p bits s).bitContested r' = true)
  | [], s, r, run => ⟨r, ⟨run, rfl, rfl, rfl, rfl⟩, .inl (List.append_nil _).symm⟩
  | high :: rest, s, r, run => by
    unfold takeBits
    rw [State.run_of run]
    dsimp only
    split
    · obtain ⟨r1, one, bits⟩ := s.takeBit_sameByte p r high
      obtain ⟨r', more, ends⟩ := takeBits_sameByte rest _ r1 one.state
      refine ⟨r', one.trans more, ends.imp_left fun e => ?_⟩
      rw [e, bits, List.append_assoc, List.singleton_append]
    · next stays =>
      refine ⟨r, ⟨run, rfl, rfl, rfl, rfl⟩, .inr ?_⟩
      by_cases few : r.bits.length < 9
      · rw [decide_eq_true few, Bool.true_and, Bool.not_eq_true] at stays
        simp only [Bool.or_eq_false_iff, Bool.not_eq_false', bne_eq_false_iff_eq] at stays
        exact .inr ⟨stays.1.2, stays.2⟩
      · exact .inl few

/-- A bit in which arbitration is lost is not taken: the row of the byte stands where it was (R129, R142). -/
theorem State.onBits_lost {s : State} {p : PortId} {r : Run} {before : List Bool} (after : List Bool)
    (phase : Phase) (whole : State → Run → Bool → State) (run : (s.port p).state = .running r)
    (shared : (s.port p).settings.mode = .shared)
    (contested : ∀ t r', s.SameByte p r t r' → r'.bits = r.bits ++ before → t.bitContested r' = true) :
    s.onBits p phase (before ++ false :: after) whole = s.onBits p phase before whole := by
  obtain ⟨r', same, ends⟩ := takeBits_sameByte before s r run
  have taken : takeBits p (before ++ false :: after) s = takeBits p before s := by
    refine takeBits_lost before s fun r'' run'' few => ?_
    obtain rfl : r' = r'' := PortState.running.inj (same.state.symm.trans run'')
    rcases ends with all | over_ | lost
    · exact ⟨by rw [same.settings, shared], contested _ _ same all⟩
    · exact absurd few over_
    · exact lost
  unfold State.onBits
  rw [taken]

/-! ### What a loss does -/

theorem exec_arbitrationLoss_of {s : State} {p : PortId} (wire : s.OpenWire p) :
    exec (.arbitrationLoss p []) s = .next (match s.run? p with
      | some r =>
        if (s.port p).settings.mode == .shared && s.contested r then s.loseArbitration p r else s
      | none => s) := by
  show execArbitrationLoss p [] s = _
  rw [execArbitrationLoss, wire.beforeWire, State.passBits_nil] <;> rfl

theorem exec_arbitrationLoss_none {s : State} {p : PortId} (wire : s.OpenWire p)
    (idle : ∀ r, (s.port p).state ≠ .running r) : exec (.arbitrationLoss p []) s = .next s := by
  have none : s.run? p = none := by
    rw [Option.eq_none_iff_forall_not_mem]
    exact fun r hr => idle r (State.run?_eq_some.1 hr)
  rw [exec_arbitrationLoss_of wire, none]

section Loss

variable {s : State} {p : PortId} {r : Run} (wire : s.OpenWire p) (run : (s.port p).state = .running r)
include wire run

theorem exec_arbitrationLoss_kept
    (kept : (s.port p).settings.mode ≠ .shared ∨ s.contested r = false) :
    exec (.arbitrationLoss p []) s = .next s := by
  have off : ((s.port p).settings.mode == .shared && s.contested r) = false := by
    rcases kept with mode | clear
    · rw [beq_eq_false_iff_ne.2 mode, Bool.false_and]
    · rw [clear, Bool.and_false]
  rw [exec_arbitrationLoss_of wire, State.run_of run]
  simp only [off, Bool.false_eq_true, if_false]

theorem exec_arbitrationLoss_lost (shared : (s.port p).settings.mode = .shared)
    (contested : s.contested r = true) :
    exec (.arbitrationLoss p []) s = .next (s.loseArbitration p r) := by
  rw [exec_arbitrationLoss_of wire, State.run_of run]
  simp only [shared, contested, beq_self_eq_true, Bool.and_self, if_true]

end Loss

/-- A stretch timeout that precedes an event leaves no byte in progress, or is due again (R125). -/
theorem State.forceStretch_passBits (s : State) (p : PortId) (bits : List Bool) (due : s.stretchDue p = true) :
    (s.forceStretch p).passBits p bits = s.forceStretch p := by
  unfold State.forceStretch
  rw [if_pos due]
  have left (t : State) (x : PortState) (idle : ∀ r, x ≠ .running r) : (t.setPortState p x).run? p = none := by
    rw [Option.eq_none_iff_forall_not_mem]
    intro r run
    have state := State.run?_eq_some.1 run
    rw [State.setPortState_port_same] at state
    exact idle r state
  unfold State.stretchTimeout
  split
  · split
    · exact State.passBits_idle _ (left _ _ fun _ => nofun)
    · exact State.passBits_due _ due
  · next o n _ =>
    rw [State.failRecovery_eq]
    split
    · exact State.passBits_idle _ (left _ _ fun _ => nofun)
    · refine State.passBits_idle _ ?_
      obtain ⟨q, notice, -, asked⟩ := State.askNotice_port (s.setPortState p (.stuck 0)) p
      have state : (((s.setPortState p (.stuck 0)).askNotice (.port p)).port p).state = .stuck 0 := by
        rw [asked, State.setPort_port_same, State.setPortState_port_same]
      simp only [State.run?, state]
  · exact State.passBits_due _ due

theorem exec_arbitrationLoss_takes {s : State} {p : PortId} (quiet : s.Quiet) :
    s.TakesBitsFirst p (.arbitrationLoss p) := by
  refine quiet.takesBitsFirst (fun due bits => ?_) (fun wire bits => ?_)
  · have stays (l : List Bool) : (s.beforeWire p).passBits p l = s.beforeWire p := by
      rw [State.beforeWire, quiet.beforeEvent, State.forceStretch_passBits s p l due]
    show execArbitrationLoss p bits s = execArbitrationLoss p [] s
    rw [execArbitrationLoss, execArbitrationLoss, stays, stays]
  · show execArbitrationLoss p bits s = execArbitrationLoss p [] (s.passBits p bits)
    rw [execArbitrationLoss, execArbitrationLoss, wire.beforeWire, (wire.passBits bits).beforeWire,
      State.passBits_nil]

end Sys2Proof.Machine

end

section
/-! SUPPORT. What a run comes to by an arbitration loss (R140, R142, R143, R145). -/

namespace Sys2Proof.Machine

section Outcomes

variable {s : State} {p : PortId} {r : Run} {j : Job} (hj : s.job? r.slot = some j)
include hj

theorem State.loseArbitration_stopping (stopping : j.stopping = true) :
    s.loseArbitration p r = (s.noteFail r).finishRun p r .cancelled .idle := by
  simp only [State.loseArbitration, hj, stopping, if_true]

theorem State.loseArbitration_failed {o : JobOutcome} (clear : j.stopping = false)
    (phase : r.phase = .stop .failed) (outcome : j.run.outcome = some o) :
    s.loseArbitration p r = s.finishRun p r o .idle := by
  simp only [State.loseArbitration, hj, clear, Bool.false_eq_true, if_false, phase, beq_self_eq_true, if_true,
    outcome, Option.getD_some]

variable (clear : j.stopping = false) (phase : r.phase ≠ .stop .failed)
include clear phase

theorem State.loseArbitration_committed (committed : r.committed = true) :
    s.loseArbitration p r = (s.noteFail r).finishRun p r .arbLostPartial .idle := by
  simp only [State.loseArbitration, hj, clear, Bool.false_eq_true, if_false, beq_eq_false_iff_ne.2 phase,
    committed, if_true]

theorem State.loseArbitration_last (fresh : r.committed = false) (none : j.retriesLeft = 0) :
    s.loseArbitration p r = (s.noteFail r).finishRun p r .arbLost .idle := by
  simp only [State.loseArbitration, hj, clear, Bool.false_eq_true, if_false, beq_eq_false_iff_ne.2 phase,
    fresh, none, Nat.lt_irrefl]

theorem State.loseArbitration_retries (fresh : r.committed = false) (some_ : 0 < j.retriesLeft) :
    s.loseArbitration p r = s.handBack p r true .idle := by
  simp only [State.loseArbitration, hj, clear, Bool.false_eq_true, if_false, beq_eq_false_iff_ne.2 phase,
    fresh, some_, if_true]

end Outcomes

end Sys2Proof.Machine

open Sys2Proof Sys2Proof.Machine

/-- Settles O53: where a run is contested, that a low bit there is not taken, and how the run goes on. -/
theorem arbitrationLossEndsOrRetriesTheRun : Obligations.ArbitrationLossEndsOrRetriesTheRun := by
  unfold Obligations.ArbitrationLossEndsOrRetriesTheRun
  refine ⟨fun s p quiet => exec_arbitrationLoss_takes quiet,
    fun s p quiet due idle => exec_arbitrationLoss_none ⟨quiet, due⟩ idle, fun s p r j run hj => ⟨?_, ?_⟩⟩
  · intro quiet due k
    have wire : s.OpenWire p := ⟨quiet, due⟩
    refine ⟨fun elsewhere => ?_, fun shared contested => ?_, fun shared before after => ?_⟩
    · refine exec_arbitrationLoss_kept wire run ?_
      rcases elsewhere with mode | ⟨b, sends, bit⟩ | ⟨phase, bit⟩ | ⟨phase, held⟩ | phase | phase | phase |
        phase
      · exact .inl mode
      · rw [sends.contested hj]
        rcases bit with ninth | zero
        · rw [decide_eq_false (Nat.not_lt.2 ninth), Bool.false_and]
          exact .inr rfl
        · rw [zero, Bool.and_false]
          exact .inr rfl
      · rw [State.contested_read phase hj]
        rcases bit with other | acks
        · rw [decide_eq_false other, Bool.false_and]
          exact .inr rfl
        · rw [acks, Bool.and_false]
          exact .inr rfl
      · exact .inr (by simp only [State.contested, phase, held])
      · exact .inr (by simp only [State.contested, phase])
      · exact .inr (by simp only [State.contested, phase])
      · exact .inr (by simp only [State.contested, phase])
      · exact .inr (by simp only [State.contested, phase])
    · refine exec_arbitrationLoss_lost wire run shared ?_
      rcases contested with ⟨b, sends, lt, bit⟩ | ⟨phase, ninth, nak⟩ | ⟨phase, held⟩ | ⟨after, phase⟩
      · rw [sends.contested hj, decide_eq_true lt, bit, Bool.and_self]
      · rw [State.contested_read phase hj, decide_eq_true ninth, nak, Bool.and_self]
      · simp only [State.contested, phase, held]
      · simp only [State.contested, phase]
    · intro n stands
      refine ⟨fun b sends lt bit => ?_, fun phase ninth nak => ?_⟩
      · have lost (phase : Phase) (whole : State → Run → Bool → State) :=
          State.onBits_lost after phase whole run shared (before := before) fun t r' same bits => by
            rw [State.bitContested_sent (same.sends.trans (sends.byte hj)), bits, decide_eq_true lt,
              Bool.true_and]
            exact bit
        refine ⟨?_, ?_, ?_⟩
        · show exec _ s = exec _ s
          rw [exec_address_of wire, exec_address_of wire, lost]
        · show exec _ s = exec _ s
          rw [exec_poll_of wire, exec_poll_of wire, lost]
        · show exec _ s = exec _ s
          rw [exec_write_of wire, exec_write_of wire, lost]
      · show exec _ s = exec _ s
        rw [exec_read_of wire, exec_read_of wire,
          State.onBits_lost after .read (State.dataReceived p) run shared (before := before)
            fun t r' same bits => ?_]
        rw [State.bitContested_read (same.phase.trans phase), bits, decide_eq_true ninth, same.naked, hj,
          Option.any_some, nak, Bool.and_self]
  · intro here ended afterFailure
    have noted (first : ¬afterFailure) : s.noteFail r = s.setJob r.slot here := State.noteFail_of hj first
    have kept (written : afterFailure) : s.noteFail r = s.setJob r.slot j :=
      (State.noteFail_written written).trans (State.setJob_self hj).symm
    refine ⟨fun stopping written => ?_, fun stopping first => ?_, fun o clear phase outcome => ?_,
      fun clear first => ⟨fun committed => ?_, fun fresh none => ?_, fun fresh some_ => ?_⟩⟩
    · exact (State.loseArbitration_stopping hj stopping).trans (by rw [kept written]; rfl)
    · exact (State.loseArbitration_stopping hj stopping).trans (by rw [noted first]; rfl)
    · refine (State.loseArbitration_failed hj clear phase outcome).trans ?_
      exact congrArg (fun t => State.finishRun t p r o .idle) (State.setJob_self hj).symm
    · exact (State.loseArbitration_committed hj clear (fun e => first (.inr e)) committed).trans
        (by rw [noted first]; rfl)
    · exact (State.loseArbitration_last hj clear (fun e => first (.inr e)) fresh none).trans
        (by rw [noted first]; rfl)
    · rw [State.loseArbitration_retries hj clear (fun e => first (.inr e)) fresh some_,
        State.handBack_eq true _ hj, State.joinHead, State.setPortState_setPort, State.port_setJob]
      rfl

end

section
/-! SUPPORT. An increment's samples and counts, field by field, and the acts before the time base's event
(R53, R56, R70 to R72, R112, R125; log 4). -/

namespace Sys2Proof.Machine

/-! ### The samples of the lines -/

/-- A line with one sample more (R70). -/
def State.sampledLine (s : State) (now : Time) (n : Nat) : Line :=
  { s.line n with sampler := (s.line n).sampler.sample (s.pins.level n) now }

/-- Whether a line's sample brings its run to filter + 1 samples (R71). -/
def State.samplesEdge (s : State) (now : Time) (n : Nat) : Bool :=
  s.available n && (s.sampledLine now n).qualifies

/-- The state with lines and edges of its own. -/
def State.withLines (s : State) (lines : List Line) (edges : List Nat) : State :=
  { s with lines := lines, tick := { s.tick with edges := edges } }

theorem State.withLines_self (s : State) : s.withLines s.lines s.tick.edges = s := rfl

/-- From `s` the lines in `l` have been sampled: their samplers have moved to `lines`. -/
structure State.Sampled (s : State) (now : Time) (l : List Nat) (lines : List Line) : Prop where
  length : lines.length = s.lines.length
  line   : ∀ n e, (s.withLines lines e).line n =
    if n ∈ l ∧ s.available n = true ∧ n < s.lines.length then s.sampledLine now n else s.line n

theorem State.sampleLine_eq (s : State) (now : Time) (n : Nat) : ∃ lines, s.Sampled now [n] lines ∧
    s.sampleLine now n = s.withLines lines (s.tick.edges ++ [n].filter (s.samplesEdge now)) := by
  unfold State.sampleLine
  by_cases open_ : s.available n = true
  · refine ⟨s.lines.set n (s.sampledLine now n), ⟨List.length_set, fun i e => ?_⟩, ?_⟩
    · show (s.setLine n (s.sampledLine now n)).line i = _
      rw [State.line_setLine]
      simp only [List.mem_singleton]
      by_cases at_ : i = n
      · subst at_
        simp only [open_, true_and]
      · rw [if_neg fun c => at_ c.1, if_neg fun c => at_ c.1]
    · rw [if_pos open_]
      have edge : s.samplesEdge now n = (s.sampledLine now n).qualifies := by
        rw [State.samplesEdge, open_, Bool.true_and]
      cases qualifies : (s.sampledLine now n).qualifies with
      | true =>
        rw [List.filter_cons_of_pos (edge.trans qualifies)]
        exact if_pos qualifies
      | false =>
        rw [List.filter_cons_of_neg (Bool.eq_false_iff.1 (edge.trans qualifies)), List.filter_nil,
          List.append_nil]
        exact if_neg (Bool.eq_false_iff.1 qualifies)
  · refine ⟨s.lines, ⟨rfl, fun i e => ?_⟩, ?_⟩
    · rw [if_neg (by rintro ⟨mem, at_, -⟩; exact open_ (List.mem_singleton.1 mem ▸ at_))]
      rfl
    · have edge : ¬s.samplesEdge now n = true := fun c => open_ (Bool.and_eq_true_iff.1 c).1
      rw [if_neg open_, List.filter_cons_of_neg edge, List.filter_nil, List.append_nil, State.withLines_self]

theorem sampleLines_eq (now : Time) : ∀ (l : List Nat) (s : State), l.Nodup → ∃ lines, s.Sampled now l lines ∧
    sampleLines now l s = s.withLines lines (s.tick.edges ++ l.filter (s.samplesEdge now))
  | [], s, _ => by
    refine ⟨s.lines, ⟨rfl, fun n e => ?_⟩, ?_⟩
    · rw [if_neg fun c => List.not_mem_nil c.1]
      rfl
    · rw [List.filter_nil, List.append_nil, State.withLines_self]
      rfl
  | n :: rest, s, nodup => by
    obtain ⟨notIn, nodup⟩ := List.nodup_cons.1 nodup
    obtain ⟨lines1, first, e1⟩ := s.sampleLine_eq now n
    generalize hu : s.withLines lines1 (s.tick.edges ++ [n].filter (s.samplesEdge now)) = u at e1
    have kept (i : Nat) (other : i ≠ n) : u.line i = s.line i := by
      rw [← hu, first.line, if_neg fun c => other (List.mem_singleton.1 c.1)]
    have open_ (i : Nat) : u.available i = s.available i := by rw [← hu]; rfl
    have pins : u.pins = s.pins := by rw [← hu]; rfl
    have sampled (i : Nat) (other : i ≠ n) : u.sampledLine now i = s.sampledLine now i := by
      rw [State.sampledLine, kept i other, pins]
      rfl
    have count : u.lines.length = s.lines.length := by rw [← hu]; exact first.length
    obtain ⟨lines, more, e⟩ := sampleLines_eq now rest u nodup
    refine ⟨lines, ⟨more.length.trans count, fun i e => ?_⟩, ?_⟩
    · have same : (s.withLines lines e).line i = (u.withLines lines e).line i := rfl
      rw [same, more.line i e, open_, count]
      by_cases at_ : i = n
      · subst at_
        rw [if_neg fun c => notIn c.1, ← hu, first.line]
        simp only [List.mem_cons, true_or, true_and]
      · rw [sampled i at_, kept i at_]
        simp only [List.mem_cons, at_, false_or]
    · have edges : rest.filter (u.samplesEdge now) = rest.filter (s.samplesEdge now) :=
        List.filter_congr fun i mem => by
          rw [State.samplesEdge, open_, sampled i fun e => notIn (e ▸ mem)]
          rfl
      rw [sampleLines, e1, e, edges, ← hu]
      show s.withLines lines ((s.tick.edges ++ [n].filter (s.samplesEdge now)) ++ _) = _
      rw [List.append_assoc, ← List.filter_append, List.singleton_append]

/-! ### The counts -/

/-- An increment's sample of a port. -/
def sampleOf (m : Samples) : PortId → PortSample
  | .a => m.a
  | .b => m.b

theorem State.port_withLines (s : State) (lines : List Line) (edges : List Nat) (p : PortId) :
    (s.withLines lines edges).port p = s.port p := by cases p <;> rfl

theorem State.counted_port (s : State) (m : Samples) (p : PortId) :
    (s.counted m).port p = (s.port p).tickCount (sampleOf m p) (s.waitPull p) := by cases p <;> rfl

theorem State.counted_line (s : State) (m : Samples) (n : Nat) : (s.counted m).line n = s.line n := rfl

theorem State.counted_available (s : State) (m : Samples) (n : Nat) :
    (s.counted m).available n = s.available n := by
  have settings : (s.counted m).portB.settings = s.portB.settings := Port.tickCount_settings _ _ _
  rw [State.available, settings]
  rfl

/-- An increment counted and sampled: the lines' samplers and the edges to be detected, apart from the
counts. -/
theorem State.countAndSample_sampled (s : State) (m : Samples) : ∃ lines,
    ((s.counted m).setTick TickWork.none).Sampled (s.time + 1) (List.range 8) lines ∧
    s.countAndSample m = ((s.counted m).setTick TickWork.none).withLines lines
      ((List.range 8).filter (((s.counted m).setTick TickWork.none).samplesEdge (s.time + 1))) := by
  rw [State.countAndSample_eq]
  exact sampleLines_eq (s.time + 1) (List.range 8) _ List.nodup_range

/-! ### What a port counts -/

theorem PortState.count_eq (x : PortState) : x.count = match x with
    | .settling n => .settling (n + 1)
    | .stuck n => .stuck (n + 1)
    | .running r =>
      if r.phase = .pollGap ∨ r.phase = .pauseHold ∨ r.phase = .pauseFree
      then .running { r with pauseCount := r.pauseCount + 1 } else .running r
    | x => x := by
  cases x with
  | running r => cases phase : r.phase <;> simp [PortState.count, Run.countWait, phase]
  | _ => rfl

theorem Port.tickCount_state (x : Port) (m : PortSample) (sda : Pull) :
    (x.tickCount m sda).state = x.state.count := by
  obtain ⟨present, presRun, e⟩ := x.debounce_eq m.prs
  unfold Port.tickCount
  rw [e]

theorem Port.tickCount_kept_fields (x : Port) (m : PortSample) (sda : Pull) :
    (x.tickCount m sda).ready = x.ready ∧ (x.tickCount m sda).notice = x.notice ∧
      (x.tickCount m sda).sent = x.sent ∧ (x.tickCount m sda).gave = x.gave ∧
      (x.tickCount m sda).pulls = x.pulls := by
  obtain ⟨present, presRun, e⟩ := x.debounce_eq m.prs
  unfold Port.tickCount
  rw [e]
  exact ⟨rfl, rfl, rfl, rfl, rfl⟩

/-! ### The acts before the time base's event -/

theorem State.takeEarly_time (s : State) (act : TickAct) :
    (s.takeEarly act).time = s.time ∧ (s.takeEarly act).timeSet = s.timeSet := by
  have other := State.takeAct_steady { s with time := s.time + 1, tick := { s.tick with ahead := true } } act
  cases act with
  | dispatch p => exact ⟨(s.dispatchPort_moves p).steady.time, (s.dispatchPort_moves p).steady.timeSet⟩
  | eventUnit => exact ⟨rfl, other.timeSet⟩
  | port p => exact ⟨rfl, other.timeSet⟩
  | link => exact ⟨rfl, other.timeSet⟩

theorem foldl_takeEarly_time : ∀ (l : List TickAct) (s : State),
    (l.foldl State.takeEarly s).time = s.time ∧ (l.foldl State.takeEarly s).timeSet = s.timeSet
  | [], _ => ⟨rfl, rfl⟩
  | act :: rest, s => by
    obtain ⟨time, timeSet⟩ := s.takeEarly_time act
    obtain ⟨time', timeSet'⟩ := foldl_takeEarly_time rest (s.takeEarly act)
    exact ⟨time'.trans time, timeSet'.trans timeSet⟩

/-! ### The jobs left to evaluate -/

theorem Job.waitsOnTime_iff (j : Job) : j.waitsOnTime = true ↔
    ((∃ t0, j.trigger = .atTime t0) ∧ j.state = .pending) ∨
    (j.deadline ≠ none ∧ (j.state = .pending ∨ j.state = .ready)) ∨
    ((∃ period phase runs, j.trigger = .every period phase runs) ∧
      (j.state = .pending ∨ j.state = .ready ∨ j.state = .active)) := by
  rw [← Option.isSome_iff_ne_none]
  cases trigger : j.trigger <;> cases state : j.state <;> simp [Job.waitsOnTime, trigger, state]

end Sys2Proof.Machine

end

section
/-! SUPPORT. A tick increment as a whole: what is left, the counts, the early acts, the advance (R51, R53,
R56; log 3, log 4). -/

namespace Sys2Proof.Machine

/-! ### A port's acts as commands -/

/-- A port's acts that are due are, in their order, the commands that name them. -/
theorem State.takeAct_port_eq {s : State} (evals : s.tick.evals = []) (edging : s.tick.edging = false)
    (p : PortId) : s.takeAct (.port p) =
      ((((s.forcePresence p).forceStretch p).forceWait p).forceCheck p).after (.trackerTimeout p) := by
  have tick : ((((s.forcePresence p).forceStretch p).forceWait p).forceCheck p).tick = s.tick := by
    rw [State.forceCheck_tick, State.forceWait_tick, State.forceStretch_tick, State.forcePresence_tick]
  exact (State.forceTracker_eq (by rw [tick]; exact evals) (by rw [tick]; exact edging) p).symm

/-! ### The state an increment has counted -/

theorem State.countAndSample_port (s : State) (m : Samples) (p : PortId) :
    (s.countAndSample m).port p = (s.port p).tickCount (sampleOf m p) (s.waitPull p) := by
  obtain ⟨lines, -, e⟩ := s.countAndSample_sampled m
  rw [e, State.port_withLines, State.port_setTick, State.counted_port]

theorem State.countAndSample_line (s : State) (m : Samples) (n : Nat) :
    ((s.countAndSample m).line n).config = (s.line n).config ∧
      ((s.countAndSample m).line n).capture = (s.line n).capture ∧
      ((s.countAndSample m).line n).notice = (s.line n).notice := by
  obtain ⟨lines, sampled, e⟩ := s.countAndSample_sampled m
  have line : ((s.counted m).setTick TickWork.none).line n = s.line n := rfl
  rw [e, sampled.line, State.sampledLine, line]
  split <;> exact ⟨rfl, rfl, rfl⟩

/-- What neither counts nor samples: time, jobs, pool; and the counts of the reports and the link. -/
theorem State.countAndSample_fields (s : State) (m : Samples) :
    (s.countAndSample m).time = s.time ∧ (s.countAndSample m).timeSet = s.timeSet ∧
      (s.countAndSample m).slots = s.slots ∧ (s.countAndSample m).counter = s.counter ∧
      (s.countAndSample m).pool = s.pool ∧
      (s.countAndSample m).reports = { s.reports with pulse := s.reports.pulse.map (· + 1) } ∧
      (s.countAndSample m).link = s.link.tickCount := by
  obtain ⟨lines, -, e⟩ := s.countAndSample_sampled m
  rw [e]
  simp [State.withLines, State.counted]

theorem Link.tickCount_eq (l : Link) : l.tickCount = { l with
    gap := if l.parser = .hunt then l.gap else l.gap + 1
    slot := match l.slot with | .held tag lseq n => .held tag lseq (n + 1) | x => x } := by
  unfold Link.tickCount
  by_cases hunt : l.parser = .hunt
  · rw [if_pos hunt, if_pos (beq_iff_eq.2 hunt)]
    rfl
  · rw [if_neg hunt, if_neg (mt beq_iff_eq.1 hunt)]
    rfl

/-! ### The advance -/

theorem exec_tickIncrement_of (s : State) (m : Samples) (early : List TickAct) :
    exec (.tickIncrement ⟨m, early⟩) s =
      .next (early.foldl State.takeEarly (s.finishTick.countAndSample m)).raiseTime := rfl

theorem State.age_of {s : State} {slot : Nat} {j : Job} (hj : s.job? slot = some j) :
    s.age slot = (s.counter - j.admission).toNat := by
  simp only [State.age, hj]

/-- The jobs to evaluate, in the order of admission (R3, R56). -/
theorem State.slotsToEvaluate_order (s : State) : s.slotsToEvaluate.Nodup ∧
    s.slotsToEvaluate.Pairwise (fun i k => ∀ x y, s.job? i = some x → s.job? k = some y →
      (s.counter - y.admission).toNat ≤ (s.counter - x.admission).toNat) := by
  refine ⟨s.ordered_nodup _, (s.admissionOrder_pairwise _).imp fun older x y hx hy => ?_⟩
  rwa [State.age_of hx, State.age_of hy] at older

theorem State.mem_slotsToEvaluate {s : State} {i : Nat} : i ∈ s.slotsToEvaluate ↔
    ∃ j, s.job? i = some j ∧ j.waitsOnTime = true := State.mem_ordered

/-- The advance: the time rises by one, and the jobs that wait on time are to be evaluated (R51, R56). -/
theorem State.raiseTime_advances {v : State} {now : Time} (time : v.time = now) :
    v.raiseTime.time = now + 1 ∧ v.raiseTime.timeSet = v.timeSet ∧
      v.raiseTime =
        { v with time := now + 1, tick := { v.tick with evals := v.raiseTime.tick.evals } } ∧
      (∀ i, i ∈ v.raiseTime.tick.evals ↔ ∃ j, v.raiseTime.job? i = some j ∧ j.waitsOnTime = true) ∧
      v.raiseTime.tick.evals.Nodup ∧
      v.raiseTime.tick.evals.Pairwise (fun i k => ∀ x y, v.raiseTime.job? i = some x →
        v.raiseTime.job? k = some y →
          (v.raiseTime.counter - y.admission).toNat ≤ (v.raiseTime.counter - x.admission).toNat) := by
  subst time
  obtain ⟨nodup, order⟩ := State.slotsToEvaluate_order { v with time := v.time + 1 }
  exact ⟨rfl, rfl, State.raiseTime_eq v, fun i => State.mem_slotsToEvaluate, nodup, order⟩

end Sys2Proof.Machine

open Sys2Proof Sys2Proof.Machine

/-- Settles O12: what is left block by block, the counts field by field, and the advance. -/
theorem tickRaisesTheTimeAndTheDurations : Obligations.TickRaisesTheTimeAndTheDurations := by
  unfold Obligations.TickRaisesTheTimeAndTheDurations
  refine ⟨State.finishTick_eq, fun s evals edging => ⟨s.takeAct_eventUnit, fun p => ?_, fun p => ?_, ?_⟩, fun x act => ?_,
    fun s m early => ?_⟩
  · show Host.Outcome.next (s.beforeEvent.dispatchPort p) = _
    rw [State.beforeEvent_of_done evals edging]
    rfl
  · intro s1 s2 s3 s4
    have e1 : s1 = s.forcePresence p := State.forcePresence_eq evals edging p
    have t1 : s1.tick = s.tick := by rw [e1, State.forcePresence_tick]
    have e2 : s2 = s1.forceStretch p :=
      State.forceStretch_eq (by rw [t1]; exact evals) (by rw [t1]; exact edging) p
    have t2 : s2.tick = s.tick := by rw [e2, State.forceStretch_tick, t1]
    have e3 : s3 = s2.forceWait p :=
      State.forceWait_eq (by rw [t2]; exact evals) (by rw [t2]; exact edging) p
    have t3 : s3.tick = s.tick := by rw [e3, State.forceWait_tick, t2]
    have e4 : s4 = s3.forceCheck p :=
      State.forceCheck_eq (by rw [t3]; exact evals) (by rw [t3]; exact edging) p
    rw [State.takeAct_port_eq evals edging, e4, e3, e2, e1]
  · exact (State.forceLink_eq evals edging).symm
  · cases act <;> rfl
  · intro w u v waits
    have left : s.finishTick = w := rfl
    have sampled : w.countAndSample m = u := rfl
    have acted : early.foldl State.takeEarly u = v := rfl
    clear_value v u w
    have clock := s.finishTick_steady
    have fields := w.countAndSample_fields m
    have lines := w.countAndSample_line m
    have ports := w.countAndSample_port m
    have clock' := foldl_takeEarly_time early u
    rw [left] at clock
    rw [sampled] at fields lines ports
    rw [acted] at clock'
    obtain ⟨time, timeSet, slots, counter, pool, reports, link⟩ := fields
    obtain ⟨raised, set, advanced, evals, nodup, order⟩ :=
      State.raiseTime_advances (clock'.1.trans (time.trans clock.time))
    have waiting (j : Job) : j.waitsOnTime = true ↔ waits j := Job.waitsOnTime_iff j
    simp only [waiting] at evals
    refine ⟨v.raiseTime, by rw [exec_tickIncrement_of, left, sampled, acted], raised,
      set.trans (clock'.2.trans (timeSet.trans clock.timeSet)), advanced, evals, nodup, order,
      time.trans clock.time, slots, counter, pool, reports, link.trans (Link.tickCount_eq _), lines,
      fun p => ?_⟩
    obtain ⟨ready, notice, sent, gave, pulls⟩ :=
      Port.tickCount_kept_fields (w.port p) (sampleOf m p) (w.waitPull p)
    rw [ports p]
    exact ⟨Port.tickCount_settings _ _ _, ready, notice, sent, gave, pulls,
      (Port.tickCount_state _ _ _).trans (PortState.count_eq _)⟩

end

section
/-! SUPPORT. What an increment samples: the lines, presence, the wait for SCL, the tracker (R70, R71, R112,
R125, R128). -/

namespace Sys2Proof.Machine

/-! ### Lines -/

theorem Sampler.sample_eq (x : Sampler) (high : Bool) (now : Time) : x.sample high now =
    if x.settled = .unknown then { x with settled := if high then .high else .low, runCount := 0 }
    else if x.settled = (if high then .high else .low) then { x with runCount := 0 }
    else if x.runCount = 0 then { x with runCount := 1, runStart := now }
    else { x with runCount := x.runCount + 1 } := by
  simp only [Sampler.sample, levelOf, beq_iff_eq]

theorem Line.qualifies_iff (l : Line) : l.qualifies = true ↔
    0 < l.sampler.runCount ∧ l.config.filter + 1 ≤ l.sampler.runCount := by
  simp only [Line.qualifies, Bool.and_eq_true, decide_eq_true_eq]

theorem State.available_iff (s : State) (n : Nat) :
    s.available n = true ↔ n < 6 ∨ s.portB.settings.mode = .off := by
  simp only [State.available, Bool.or_eq_true, decide_eq_true_eq, beq_iff_eq]

/-- A line as an increment's sample leaves it (R70). -/
def State.tickLine (s : State) (m : Samples) (n : Nat) : Line :=
  { s.line n with sampler := (s.line n).sampler.sample ((Pins.ofSamples m).level n) (s.time + 1) }

theorem State.counted_sampledLine (s : State) (m : Samples) (n : Nat) :
    ((s.counted m).setTick TickWork.none).sampledLine (s.time + 1) n = s.tickLine m n := by
  have line : ((s.counted m).setTick TickWork.none).line n = s.line n := rfl
  have pins : ((s.counted m).setTick TickWork.none).pins = Pins.ofSamples m := by simp [State.counted]
  rw [State.sampledLine, line, pins, State.tickLine]

theorem State.counted_opens (s : State) (m : Samples) (n : Nat) :
    ((s.counted m).setTick TickWork.none).available n = s.available n := s.counted_available m n

theorem State.countAndSample_lineAt (s : State) (m : Samples) (n : Nat) : (s.countAndSample m).line n =
    if n < 8 ∧ s.available n = true ∧ n < s.lines.length then s.tickLine m n else s.line n := by
  obtain ⟨lines, sampled, e⟩ := s.countAndSample_sampled m
  have line : ((s.counted m).setTick TickWork.none).line n = s.line n := rfl
  have count : ((s.counted m).setTick TickWork.none).lines.length = s.lines.length := by
    simp [State.counted]
  rw [e, sampled.line, State.counted_opens, State.counted_sampledLine, line, count]
  simp only [List.mem_range]

theorem State.countAndSample_edges (s : State) (m : Samples) : (s.countAndSample m).tick.edges =
    (List.range 8).filter (fun n => s.available n && (s.tickLine m n).qualifies) := by
  obtain ⟨lines, -, e⟩ := s.countAndSample_sampled m
  rw [e]
  refine List.filter_congr fun n _ => ?_
  rw [State.samplesEdge, State.counted_opens, State.counted_sampledLine]

/-- A line that does not exist shows no run. -/
theorem State.tickLine_absent {s : State} {n : Nat} (m : Samples) (absent : s.lines.length ≤ n) :
    (s.tickLine m n).sampler.runCount = 0 ∧ (s.line n).sampler.runCount = 0 := by
  rw [State.tickLine, State.line_of_le absent]
  exact ⟨rfl, rfl⟩

theorem State.mem_edges_countAndSample (s : State) (m : Samples) (n : Nat) :
    n ∈ (s.countAndSample m).tick.edges ↔ n < 8 ∧ s.available n = true ∧
      0 < ((s.countAndSample m).line n).sampler.runCount ∧
      ((s.countAndSample m).line n).config.filter + 1 ≤ ((s.countAndSample m).line n).sampler.runCount := by
  rw [s.countAndSample_edges, List.mem_filter, List.mem_range, Bool.and_eq_true, Line.qualifies_iff,
    s.countAndSample_lineAt]
  by_cases there : n < s.lines.length
  · constructor
    · rintro ⟨few, open_, run⟩
      rw [if_pos ⟨few, open_, there⟩]
      exact ⟨few, open_, run⟩
    · rintro ⟨few, open_, run⟩
      rw [if_pos ⟨few, open_, there⟩] at run
      exact ⟨few, open_, run⟩
  · obtain ⟨sampled, line⟩ := State.tickLine_absent m (Nat.le_of_not_lt there)
    rw [if_neg fun c => there c.2.2, sampled, line]
    simp only [Nat.lt_irrefl, false_and, and_false]

/-! ### Presence -/

theorem Port.debounce_same {x : Port} {prs : Bool} (same : (!prs) = x.present) :
    (x.debounce prs).present = x.present ∧ (x.debounce prs).presRun = 0 := by
  rw [Port.debounce, if_pos (beq_iff_eq.2 same)]
  exact ⟨rfl, rfl⟩

theorem Port.debounce_counts {x : Port} {prs : Bool} (other : (!prs) ≠ x.present)
    (few : x.presRun + 1 < 64) :
    (x.debounce prs).present = x.present ∧ (x.debounce prs).presRun = x.presRun + 1 := by
  have count : min (x.presRun + 1) Config.presenceSamples = x.presRun + 1 := Nat.min_eq_left few.le
  have due : decide (Config.presenceSamples ≤ x.presRun + 1) = false := decide_eq_false (Nat.not_le.2 few)
  rw [Port.debounce, if_neg (mt beq_iff_eq.1 other)]
  simp only [count, Port.presenceDue, due, Bool.false_and, Bool.false_eq_true, if_false, and_self]

theorem Port.debounce_reaches {x : Port} {prs : Bool} (other : (!prs) ≠ x.present)
    (last : x.presRun + 1 = 64) :
    if x.settings.mode ≠ .off ∧ x.settings.presence = .require
    then (x.debounce prs).present = x.present ∧ (x.debounce prs).presRun = 64
    else (x.debounce prs).present = !x.present ∧ (x.debounce prs).presRun = 0 := by
  have looks : x.looksAtPresence = true ↔ x.settings.mode ≠ .off ∧ x.settings.presence = .require := by
    simp only [Port.looksAtPresence, Bool.and_eq_true, bne_iff_ne, beq_iff_eq]
  have count : min (x.presRun + 1) Config.presenceSamples = 64 := by rw [last]; rfl
  have taken : x.debounce prs = if x.looksAtPresence then { x with presRun := 64 }
      else { x with present := !x.present, presRun := 0 } := by
    rw [Port.debounce, if_neg (mt beq_iff_eq.1 other)]
    simp only [count]
    have same : Port.looksAtPresence { x with presRun := 64 } = x.looksAtPresence := rfl
    have due : Port.presenceDue { x with presRun := 64 } = true := rfl
    rw [same, due]
    cases x.looksAtPresence <;> rfl
  rw [taken]
  by_cases at_ : x.looksAtPresence = true
  · rw [if_pos (looks.1 at_), if_pos at_]
    exact ⟨rfl, rfl⟩
  · rw [if_neg (mt looks.2 at_), if_neg at_]
    exact ⟨rfl, rfl⟩

/-! ### The wait for SCL -/

theorem PortState.waitsForScl_iff (x : PortState) : x.waitsForScl = true ↔
    (∃ o n, x = .recovering o n) ∨ ∃ r, x = .running r ∧ ((r.phase = .start ∧ r.held = true) ∨
      r.phase ∈ [.address, .poll, .write, .read] ∨ ∃ after, r.phase = .stop after) := by
  cases x with
  | running r => cases phase : r.phase <;> simp [PortState.waitsForScl, Run.canStretch, phase]
  | _ => simp [PortState.waitsForScl]

theorem sclWait_count_eq (w : SclWait) (n : Nat) :
    SclWait.count w n = match w with | .none => 0 | .begun => 1 | .goesOn => n + 1 := by
  cases w <;> rfl

theorem Port.tickCount_stretch (x : Port) (m : PortSample) (sda : Pull) :
    (x.tickCount m sda).stretch = if x.state.waitsForScl then SclWait.count m.wait x.stretch else 0 := by
  obtain ⟨present, presRun, e⟩ := x.debounce_eq m.prs
  unfold Port.tickCount
  rw [e]

theorem Port.tickCount_drive (x : Port) (m : PortSample) (sda : Pull) :
    (x.tickCount m sda).drive =
      if (x.tickCount m sda).stretch = 0 then x.drive else { scl := .released, sda := sda } := by
  obtain ⟨present, presRun, e⟩ := x.debounce_eq m.prs
  unfold Port.tickCount
  rw [e]

theorem Port.tickCount_tracker (x : Port) (m : PortSample) (sda : Pull) :
    (x.tickCount m sda).tracker = x.tracker.map (fun k => k.count m.lines) := by
  obtain ⟨present, presRun, e⟩ := x.debounce_eq m.prs
  unfold Port.tickCount
  rw [e]

theorem Phase.inByte_iff (phase : Phase) :
    phase.inByte = true ↔ phase ∈ [Phase.address, Phase.poll, Phase.write, Phase.read] := by
  cases phase <;> simp [Phase.inByte]

/-- Outside a byte a waiting port does with SDA what it did before. -/
theorem State.waitPull_outside {s : State} {p : PortId} (outside : ∀ r, (s.port p).state = .running r →
    r.phase ∉ [Phase.address, Phase.poll, Phase.write, Phase.read]) :
    s.waitPull p = (s.port p).drive.sda := by
  unfold State.waitPull
  split
  · next r run =>
    exact if_neg (mt (Phase.inByte_iff _).1 (outside r (State.run?_eq_some.1 run)))
  · rfl

theorem State.waitPull_inByte {s : State} {p : PortId} {r : Run} (run : (s.port p).state = .running r)
    (inByte : r.phase.inByte = true) : s.waitPull p = s.bitPull r := by
  simp only [State.waitPull, State.run_of run, inByte, if_true]

end Sys2Proof.Machine

open Sys2Proof Sys2Proof.Machine

/-- Settles O13: line by line and port by port. -/
theorem tickSamplesThePins : Obligations.TickSamplesThePins := by
  unfold Obligations.TickSamplesThePins
  intro s m w open'
  have left : s.finishTick = w := rfl
  have time : w.time = s.time := s.finishTick_steady.time
  clear_value w
  have opens (n : Nat) : w.available n = true ↔ open' n := w.available_iff n
  have lineAt := w.countAndSample_lineAt m
  have edges := w.mem_edges_countAndSample m
  have ordered : (w.countAndSample m).tick.edges.Pairwise (· < ·) := by
    rw [w.countAndSample_edges]
    exact List.pairwise_lt_range.filter _
  have ports := w.countAndSample_port m
  generalize hu : w.countAndSample m = u at lineAt edges ordered ports
  refine ⟨u.raiseTime, by rw [exec_tickIncrement_of, left, List.foldl_nil, hu], fun n there few open_ => ?_,
    fun n shut => ?_, ordered, fun n => ?_, fun p => ?_⟩
  · intro high shown
    have line : u.raiseTime.line n = w.tickLine m n :=
      (lineAt n).trans (if_pos ⟨few, (opens n).2 open_, there⟩)
    rw [line, State.tickLine, time]
    exact Sampler.sample_eq _ high _
  · have line : u.raiseTime.line n = w.line n :=
      (lineAt n).trans (if_neg fun c => shut ((opens n).1 c.2.1))
    rw [line]
  · rw [← opens]
    exact edges n
  · intro x sample mayWait
    have port : u.raiseTime.port p = x.tickCount sample (w.waitPull p) := by
      refine Eq.trans ?_ ((ports p).trans ?_) <;> cases p <;> rfl
    have stretch := x.tickCount_stretch sample (w.waitPull p)
    have drive := x.tickCount_drive sample (w.waitPull p)
    have waits : x.state.waitsForScl = true ↔ mayWait := x.state.waitsForScl_iff
    rw [← port] at stretch drive
    refine ⟨fun same => ?_, fun other few => ?_, fun other last => ?_, fun stays => ?_, fun may => ?_,
      fun none => ?_, fun some_ => ?_, ?_⟩
    · rw [port]
      exact Port.debounce_same same
    · rw [port]
      exact Port.debounce_counts other few
    · rw [port]
      exact Port.debounce_reaches other last
    · rw [stretch, if_neg (mt waits.1 stays)]
    · rw [stretch, if_pos (waits.2 may)]
      exact sclWait_count_eq _ _
    · rw [drive, if_pos none]
    · rw [drive, if_neg some_]
      refine ⟨rfl, fun outside => State.waitPull_outside outside, fun r j run hj few => ⟨fun b sends => ?_,
        fun read => ?_⟩⟩
      · rw [State.waitPull_inByte run sends.inByte]
        exact State.bitPull_sent (sends.byte hj) few
      · rw [State.waitPull_inByte run (by rw [read]; rfl)]
        have given := State.bitPull_given (s := w) read few
        rwa [hj, Option.any_some] at given
    · rw [port, x.tickCount_tracker]
      refine congrArg (fun f => x.tracker.map f) (funext fun k => ?_)
      cases k <;> rfl

end

section
/-! SUPPORT. A detected edge: the line's record, the countdowns and the triggers, and the close of the event
unit's act (R71, R74 to R76, R83). -/

namespace Sys2Proof.Machine

/-! ### The close of the act -/

theorem askLines_eq_foldl : ∀ (l : List Nat) (s : State),
    askLines l s = l.foldl (fun u n => u.askNotice (.line n)) s
  | [], _ => rfl
  | _ :: rest, _ => askLines_eq_foldl rest _

theorem State.closeEvents_eq (s : State) : s.closeEvents =
    if s.tick.edges = [] ∧ s.tick.triggers = [] then
      let t := s.tick.asks.foldl (fun u n => u.askNotice (.line n)) s
      { t with tick := { t.tick with asks := [], edging := false } }
    else s := by
  unfold State.closeEvents
  simp only [Bool.and_eq_true, List.isEmpty_iff, askLines_eq_foldl]
  rfl

/-! ### Countdowns -/

/-- A job for which a taken edge on line `n` counts (R76). -/
def Job.edgeCounted (j : Job) (n : Nat) : Job :=
  if j.waitsOnLine n then { j with countdown := j.countdown - 1 } else j

theorem Job.edgeCounted_admission (j : Job) (n : Nat) : (j.edgeCounted n).admission = j.admission := by
  unfold Job.edgeCounted
  split <;> rfl

theorem Job.waitsOnLine_iff (j : Job) (n : Nat) : j.waitsOnLine n = true ↔
    j.state = .pending ∧ ∃ count, j.trigger = .event n count := by
  cases trigger : j.trigger <;> simp [Job.waitsOnLine, trigger]

/-- The state with jobs and EVENT triggers of its own. -/
def State.withTriggers (s : State) (slots : List (Option Job)) (triggers : List (Nat × Time)) : State :=
  { s with slots := slots, tick := { s.tick with triggers := triggers } }

/-- From `s` an edge on line `n` with edge time `t` has counted for the jobs in the slots of `l`. -/
structure State.EdgeCounts (s : State) (n : Nat) (t : Time) (l : List Nat) (slots : List (Option Job))
    (triggers : List (Nat × Time)) : Prop where
  length : slots.length = s.slots.length
  job    : ∀ i, slots.getD i none =
    if i ∈ l then (s.job? i).map (fun j => j.edgeCounted n) else s.job? i
  mem    : ∀ x, x ∈ triggers ↔ x ∈ s.tick.triggers ∨ x.2 = t ∧ x.1 ∈ l ∧
    ∃ j, s.job? x.1 = some j ∧ j.waitsOnLine n = true ∧ j.countdown ≤ 1
  order  : s.tick.triggers.Pairwise (fun x y => s.age y.1 ≤ s.age x.1) →
    triggers.Pairwise (fun x y => s.age y.1 ≤ s.age x.1)

theorem State.EdgeCounts.age {s : State} {n : Nat} {t : Time} {l : List Nat} {slots : List (Option Job)}
    {triggers : List (Nat × Time)} (h : s.EdgeCounts n t l slots triggers) (i : Nat) :
    (s.withTriggers slots triggers).age i = s.age i := by
  have job : (s.withTriggers slots triggers).job? i =
      if i ∈ l then (s.job? i).map (fun j => j.edgeCounted n) else s.job? i := h.job i
  unfold State.age
  rw [job]
  by_cases mem : i ∈ l
  · rw [if_pos mem]
    cases s.job? i with
    | none => rfl
    | some j =>
      simp only [Option.map_some, Job.edgeCounted_admission]
      rfl
  · rw [if_neg mem]
    rfl

theorem State.countEdge_counts (s : State) (n : Nat) (t : Time) (slot : Nat) : ∃ slots triggers,
    s.EdgeCounts n t [slot] slots triggers ∧ s.countEdge n t slot = s.withTriggers slots triggers := by
  have unmoved (still : ∀ j, s.job? slot = some j → j.waitsOnLine n = false) :
      s.EdgeCounts n t [slot] s.slots s.tick.triggers := by
    refine ⟨rfl, fun i => ?_, fun x => ?_, id⟩
    · split
      · next at_ =>
        rw [List.mem_singleton.1 at_]
        show s.job? slot = _
        cases hj : s.job? slot with
        | none => rfl
        | some j =>
          rw [Option.map_some, Job.edgeCounted, still j hj]
          rfl
      · rfl
    · refine ⟨.inl, fun h => h.elim id ?_⟩
      rintro ⟨-, at_, j, hj, waits, -⟩
      rw [List.mem_singleton.1 at_] at hj
      exact absurd waits (Bool.eq_false_iff.1 (still j hj))
  cases hj : s.job? slot with
  | none =>
    refine ⟨s.slots, s.tick.triggers, unmoved fun j h => ?_, ?_⟩
    · rw [hj] at h
      cases h
    · simp only [State.countEdge, hj]
      rfl
  | some j =>
    cases waits : j.waitsOnLine n with
    | false =>
      refine ⟨s.slots, s.tick.triggers, unmoved fun k h => ?_, ?_⟩
      · rw [hj] at h
        cases h
        exact waits
      · simp only [State.countEdge, hj, waits, Bool.false_eq_true, if_false]
        rfl
    | true =>
      have counted : j.edgeCounted n = { j with countdown := j.countdown - 1 } := if_pos waits
      have lt := State.job_lt hj
      have job (i : Nat) : (s.slots.set slot (some (j.edgeCounted n))).getD i none =
          if i ∈ [slot] then (s.job? i).map (fun j => j.edgeCounted n) else s.job? i := by
        have at_ := State.job_of_set (t := s.setJob slot (j.edgeCounted n)) rfl lt i
        refine Eq.trans at_ ?_
        by_cases e : i = slot
        · rw [if_pos e, if_pos (List.mem_singleton.2 e), e, hj, Option.map_some]
        · rw [if_neg e, if_neg (mt List.mem_singleton.1 e)]
      have same (i : Nat) : (s.setJob slot (j.edgeCounted n)).age i = s.age i := by
        by_cases e : i = slot
        · rw [e, State.age_of (State.job_setJob_same s _ lt), State.age_of hj, j.edgeCounted_admission]
          rfl
        · rw [State.age, State.job_setJob_other s _ e]
          rfl
      by_cases last : j.countdown ≤ 1
      · refine ⟨s.slots.set slot (some (j.edgeCounted n)),
          insertOldest (fun x : Nat × Time => (s.setJob slot (j.edgeCounted n)).age x.1) (slot, t)
            s.tick.triggers, ⟨List.length_set, job, fun x => ?_, fun order => ?_⟩, ?_⟩
        · rw [(insertOldest_perm _ _ _).mem_iff, List.mem_cons, or_comm]
          refine or_congr_right ⟨?_, ?_⟩
          · rintro rfl
            exact ⟨rfl, List.mem_singleton.2 rfl, j, hj, waits, last⟩
          · rintro ⟨time, at_, -⟩
            exact Prod.ext (List.mem_singleton.1 at_) time
        · have inserted := insertOldest_pairwise
            (fun x : Nat × Time => (s.setJob slot (j.edgeCounted n)).age x.1) (slot, t) s.tick.triggers
          simp only [same] at inserted ⊢
          exact inserted order
        · simp only [State.countEdge, hj, waits, if_true, last, counted]
          rfl
      · refine ⟨s.slots.set slot (some (j.edgeCounted n)), s.tick.triggers,
          ⟨List.length_set, job, fun x => ⟨.inl, fun h => h.elim id ?_⟩, id⟩, ?_⟩
        · rintro ⟨-, at_, k, hk, -, low⟩
          rw [List.mem_singleton.1 at_, hj] at hk
          cases hk
          exact absurd low last
        · simp only [State.countEdge, hj, waits, if_true, last, if_false, counted]
          rfl

theorem countEdges_counts (n : Nat) (t : Time) : ∀ (l : List Nat) (s : State), l.Nodup →
    ∃ slots triggers, s.EdgeCounts n t l slots triggers ∧
      countEdges n t l s = s.withTriggers slots triggers
  | [], s, _ => by
    refine ⟨s.slots, s.tick.triggers, ⟨rfl, fun i => ?_, fun x => ⟨.inl, fun h => h.elim id ?_⟩, id⟩, rfl⟩
    · rw [if_neg List.not_mem_nil]
      rfl
    · rintro ⟨-, mem, -⟩
      exact absurd mem List.not_mem_nil
  | slot :: rest, s, nodup => by
    obtain ⟨notIn, nodup⟩ := List.nodup_cons.1 nodup
    obtain ⟨slots1, triggers1, first, e1⟩ := s.countEdge_counts n t slot
    have job (i : Nat) (other : i ≠ slot) : (s.withTriggers slots1 triggers1).job? i = s.job? i :=
      (first.job i).trans (if_neg (mt List.mem_singleton.1 other))
    obtain ⟨slots, triggers, more, e⟩ := countEdges_counts n t rest (s.withTriggers slots1 triggers1) nodup
    refine ⟨slots, triggers, ⟨more.length.trans first.length, fun i => ?_, fun x => ?_, fun order => ?_⟩, ?_⟩
    · rw [more.job]
      by_cases at_ : i = slot
      · subst at_
        rw [if_neg notIn, if_pos (List.mem_cons_self ..)]
        exact (first.job i).trans (if_pos (List.mem_singleton.2 rfl))
      · rw [job i at_]
        simp only [List.mem_cons, at_, false_or]
    · have before : x ∈ (s.withTriggers slots1 triggers1).tick.triggers ↔ _ := first.mem x
      rw [more.mem, before, or_assoc]
      refine or_congr_right ⟨?_, ?_⟩
      · rintro (⟨time, at_, waits⟩ | ⟨time, mem, waits⟩)
        · exact ⟨time, List.mem_cons.2 (.inl (List.mem_singleton.1 at_)), waits⟩
        · rw [job _ fun e : x.1 = slot => notIn (e ▸ mem)] at waits
          exact ⟨time, List.mem_cons_of_mem _ mem, waits⟩
      · rintro ⟨time, mem, waits⟩
        rcases List.mem_cons.1 mem with at_ | mem
        · exact .inl ⟨time, List.mem_singleton.2 at_, waits⟩
        · rw [← job _ fun e : x.1 = slot => notIn (e ▸ mem)] at waits
          exact .inr ⟨time, mem, waits⟩
    · have later := more.order
      simp only [first.age] at later
      exact later (first.order order)
    · rw [countEdges, e1, e]
      rfl

/-! ### An edge -/

theorem Sampler.polarity_eq (x : Sampler) :
    x.polarity = if x.settled = .low then .rising else .falling := by
  simp only [Sampler.polarity, beq_iff_eq]

theorem Sampler.detected_eq (x : Sampler) : x.detected =
    { x with settled := if x.settled = .low then .high else .low, runCount := 0 } := by
  simp only [Sampler.detected, beq_iff_eq]

theorem EdgeSetting.takes_iff (e : EdgeSetting) (pol : Polarity) : e.takes pol = true ↔
    e = .both ∨ (e = .rising ∧ pol = .rising) ∨ (e = .falling ∧ pol = .falling) := by
  cases e <;> cases pol <;> simp [EdgeSetting.takes]

theorem Capture.take_eq (c : Capture) (mode : CaptureMode) (pol : Polarity) (t : Time) :
    c.take mode pol t =
      { held := true
        count := min (c.count + 1) 255
        time := if mode = .first ∧ c.held = true then c.time else t
        polarity := if mode = .first ∧ c.held = true then c.polarity else pol } := by
  simp only [Capture.take, Bool.and_eq_true, beq_iff_eq]

/-- An edge that the edge setting passes over: the line's sampler alone moves (R71). -/
theorem State.detectEdge_passed {s : State} {n : Nat}
    (passed : ¬(s.line n).config.edge.takes (s.line n).sampler.polarity = true) :
    s.detectEdge n = s.setLine n { s.line n with sampler := (s.line n).sampler.detected } := by
  unfold State.detectEdge
  dsimp only
  rw [if_neg passed]

/-- An edge that is taken: the line's record, the countdowns, and the line among those to ask (R71, R74 to
R76, R83). -/
theorem State.detectEdge_taken {s : State} {n : Nat}
    (taken : (s.line n).config.edge.takes (s.line n).sampler.polarity = true) :
    let now := (s.line n).sampler.runStart
    let line : Line := { s.line n with
      sampler := (s.line n).sampler.detected
      capture := (s.line n).capture.take (s.line n).config.mode (s.line n).sampler.polarity now }
    ∃ slots triggers, (s.setLine n line).EdgeCounts n now s.liveSlots slots triggers ∧
      s.detectEdge n = (((s.setLine n line).withTriggers slots triggers).setTick
        { s.tick with triggers := triggers, asks := s.tick.asks ++ [n] }) := by
  intro now line
  obtain ⟨slots, triggers, counts, e⟩ := countEdges_counts n now s.liveSlots (s.setLine n line) s.liveSlots_nodup
  refine ⟨slots, triggers, counts, ?_⟩
  unfold State.detectEdge
  dsimp only
  rw [if_pos taken]
  exact congrArg (fun u => State.setTick u { u.tick with asks := u.tick.asks ++ [n] }) e

end Sys2Proof.Machine

open Sys2Proof Sys2Proof.Machine

/-- Settles O21: the edge that is passed over, the edge that is taken, and the close of the act. -/
theorem detectedEdgeMovesLineRecordAndCountdowns : Obligations.DetectedEdgeMovesLineRecordAndCountdowns := by
  unfold Obligations.DetectedEdgeMovesLineRecordAndCountdowns
  refine ⟨State.closeEvents_eq, fun s n rest there evals edges => ?_⟩
  intro l pol settled taken counts below older
  have polarity : l.sampler.polarity = pol := l.sampler.polarity_eq
  have detected : l.sampler.detected = { l.sampler with settled := settled, runCount := 0 } :=
    l.sampler.detected_eq
  have takes : l.config.edge.takes l.sampler.polarity = true ↔ taken := by
    rw [polarity]
    exact EdgeSetting.takes_iff _ _
  have at_ (x : Line) : (s.setLine n x).line n = x := State.line_setLine_same s x there
  have others (x : Line) (i : Nat) (other : i ≠ n) : (s.setLine n x).line i = s.line i :=
    State.line_setLine_other s x other
  by_cases passes : taken
  · obtain ⟨slots, triggers, edge, e⟩ := State.detectEdge_taken (s := s.setEdges rest true) (takes.2 passes)
    have kept (i : Nat) (x : Option Job) (h : (s.job? i).map (fun j => j.edgeCounted n) = x) :
        slots.getD i none = x := by
      refine (edge.job i).trans ?_
      by_cases live : i ∈ s.liveSlots
      · exact (if_pos live).trans h
      · have none : s.job? i = none := by
          by_contra some_
          obtain ⟨j, hj⟩ := Option.ne_none_iff_exists'.1 some_
          exact live (State.mem_liveSlots.2 ⟨j, hj⟩)
        rw [none] at h
        exact (if_neg live).trans (none.trans h)
    have line (i : Nat) : ((s.setEdges rest true).detectEdge n).line i = (s.setLine n { l with
        sampler := l.sampler.detected
        capture := l.capture.take l.config.mode l.sampler.polarity l.sampler.runStart }).line i := by
      rw [e]
      rfl
    refine ⟨(s.setEdges rest true).detectEdge n, exec_edgeDetected_of evals edges, by rw [e]; rfl,
      fun p => by rw [e]; cases p <;> rfl, by rw [e]; rfl, by rw [e]; rfl, by rw [e]; rfl, by rw [e]; rfl,
      by rw [e]; exact evals, by rw [e]; rfl, by rw [e]; rfl, by rw [line, at_]; exact detected,
      by rw [line, at_], by rw [line, at_], fun i other => by rw [line, others _ i other], fun order => ?_,
      fun passed => absurd passes passed, fun _ => ⟨?_, fun i j hj waits => ?_, fun i j hj still => ?_,
        fun i none => ?_, fun x => ?_, fun order => ?_, by rw [e]; rfl⟩⟩
    · rw [e]
      show ((s.tick.asks ++ [n]) ++ rest).Pairwise (· < ·)
      rwa [List.append_assoc, List.singleton_append]
    · rw [line, at_]
      exact (Capture.take_eq _ _ _ _).trans (by rw [polarity])
    · rw [e]
      refine kept i _ ?_
      rw [hj, Option.map_some, Job.edgeCounted, if_pos ((j.waitsOnLine_iff n).2 waits)]
    · rw [e]
      refine kept i _ ?_
      rw [hj, Option.map_some, Job.edgeCounted, if_neg (mt (j.waitsOnLine_iff n).1 still)]
    · rw [e]
      refine kept i _ ?_
      rw [none, Option.map_none]
    · rw [e]
      refine (edge.mem x).trans (or_congr_right (and_congr_right fun _ => ?_))
      constructor
      · rintro ⟨-, j, hj, waits, last⟩
        exact ⟨j, hj, (j.waitsOnLine_iff n).1 waits, last⟩
      · rintro ⟨j, hj, waits, last⟩
        exact ⟨State.mem_liveSlots.2 ⟨j, hj⟩, j, hj, (j.waitsOnLine_iff n).2 waits, last⟩
    · rw [e]
      exact edge.order order
  · have e := State.detectEdge_passed (s := s.setEdges rest true) (n := n) (mt takes.1 passes)
    have line (i : Nat) : ((s.setEdges rest true).detectEdge n).line i =
        (s.setLine n { l with sampler := l.sampler.detected }).line i := by
      rw [e]
      rfl
    refine ⟨(s.setEdges rest true).detectEdge n, exec_edgeDetected_of evals edges, by rw [e]; rfl,
      fun p => by rw [e]; cases p <;> rfl, by rw [e]; rfl, by rw [e]; rfl, by rw [e]; rfl, by rw [e]; rfl,
      by rw [e]; exact evals, by rw [e]; rfl, by rw [e]; rfl, by rw [line, at_]; exact detected,
      by rw [line, at_], by rw [line, at_], fun i other => by rw [line, others _ i other], fun order => ?_,
      fun _ => ⟨by rw [line, at_], by rw [e]; rfl, by rw [e]; rfl, by rw [e]; rfl⟩,
      fun takes => absurd takes passes⟩
    rw [e]
    exact order.sublist ((List.sublist_cons_self n rest).append_left s.tick.asks)

end

section
/-! SUPPORT. SUBMIT against the state of the part: its refusals, and the resources it takes (R10 to R13, R42
to R44). -/

namespace Sys2Proof.Machine

/-! ### SUBMIT as one event -/

theorem exec_submit_of {s : State} {r : Request} (h : s.MayCarryOut .submit r) (size : 23 ≤ r.payload.length) :
    exec .submit s = .next (submitBody r s.emptyHand) := by
  have quiet : s.Quiet := h.1.1
  show Host.Outcome.next (s.beforeEvent.serve .submit openNever submitBody) = _
  rw [quiet.beforeEvent, State.serve_carriesOut h ((Kind.sizeOk_iff _ _).2 size)]

theorem exec_submit_unparsed {s : State} {r : Request} {payload : List Byte} (h : s.MayCarryOut .submit r)
    (size : 23 ≤ r.payload.length) (refused : parseSubmit r.payload = .error payload) :
    exec .submit s = .next (s.replied r payload) := by
  rw [exec_submit_of h size, submitBody, refused]
  rfl

/-- A payload that passes check 1 holds a descriptor (R7). -/
theorem parseSubmit_size {p : List Byte} {x : Submission} (h : parseSubmit p = .ok x) : 23 ≤ p.length := by
  obtain ⟨port, trigger, steps, w, ok, -⟩ := parseSubmit_ok h
  have size := ok.size
  simp only [sizeMatches, Bool.and_eq_true, decide_eq_true_eq, Config.descriptorBytes] at size
  omega

section Parsed

variable {s : State} {r : Request} {x : Submission} (h : s.MayCarryOut .submit r)
  (parsed : parseSubmit r.payload = .ok x)
include h parsed

theorem exec_submit_refused {st : Status} (refused : s.admissionRefusal x = some st) :
    exec .submit s = .next (s.replied r [st.code]) := by
  have same : s.emptyHand.admissionRefusal x = some st := refused
  rw [exec_submit_of h (parseSubmit_size parsed), submitBody, parsed]
  simp only [same]
  rfl

theorem exec_submit_admitted (admitted : s.admissionRefusal x = none) : exec .submit s = .next
    (if x.holdReply = true
      then (s.emptyHand.accept x).setLink { (s.emptyHand.accept x).link with slot := .held x.tag r.lseq 0 }
      else (s.emptyHand.accept x).answer r (submitPayload x s.counter s.time)) := by
  have same : s.emptyHand.admissionRefusal x = none := admitted
  rw [exec_submit_of h (parseSubmit_size parsed), submitBody, parsed]
  simp only [same]
  rfl

end Parsed

/-! ### Checks 5 to 10 -/

theorem State.findSlot_isSome_iff (s : State) (tag : Tag) :
    (s.findSlot tag).isSome = true ↔ ∃ i j, s.job? i = some j ∧ j.tag = tag := by
  rw [Option.isSome_iff_ne_none, ne_eq, State.findSlot_eq_none_iff]
  push Not
  rfl

theorem State.portOffFor_iff (s : State) (x : Submission) :
    s.portOffFor x = true ↔ ∃ p, x.port = some p ∧ (s.port p).settings.mode = .off := by
  unfold State.portOffFor
  split
  · next p port =>
    rw [beq_iff_eq, port]
    exact ⟨fun off => ⟨p, rfl, off⟩, fun ⟨q, e, off⟩ => Option.some.inj e ▸ off⟩
  · next port =>
    rw [port]
    exact ⟨nofun, fun ⟨_, e, _⟩ => nomatch e⟩

theorem Submission.past_iff (x : Submission) (now : Time) :
    x.deadline.any (fun d => decide (d.toNat ≤ now.toNat)) = true ↔
      ∃ d, x.deadline = some d ∧ d.toNat ≤ now.toNat := by
  cases x.deadline <;> simp

end Sys2Proof.Machine

open Sys2Proof Sys2Proof.Machine

/-- Settles O26: the six checks in their order. -/
theorem submitIsRefusedForWantOfResources : Obligations.SubmitIsRefusedForWantOfResources := by
  unfold Obligations.SubmitIsRefusedForWantOfResources
  intro s r x h parsed tagInUse portOff past noSlot noBlocks noRoom refused
  have tag := s.findSlot_isSome_iff x.tag
  have port := s.portOffFor_iff x
  have late := x.past_iff s.time
  have full := s.freeSlots_eq_zero_iff
  have crowded : s.freeBlocks.length < x.blocksNeeded ↔ noBlocks := Iff.rfl
  have queued : s.reports.room = 0 ↔ noRoom := Iff.rfl
  have refuses {st : Status} (e : s.admissionRefusal x = some st) : refused st.code :=
    exec_submit_refused h parsed e
  refine ⟨fun used => refuses (st := .dupTag) ?_, fun fresh off => refuses (st := .portOff) ?_,
    fun fresh on passed => refuses (st := .pastDeadline) ?_,
    fun fresh on timely none => refuses (st := .tableFull) ?_,
    fun fresh on timely slot few => refuses (st := .noSpace) ?_,
    fun fresh on timely slot space none => refuses (st := .queueFull) ?_⟩ <;>
    unfold State.admissionRefusal
  · rw [if_pos (tag.2 used)]
  · rw [if_neg (mt tag.1 fresh), if_pos (port.2 off)]
  · rw [if_neg (mt tag.1 fresh), if_neg (mt port.1 on), if_pos (late.2 passed)]
  · rw [if_neg (mt tag.1 fresh), if_neg (mt port.1 on), if_neg (mt late.1 timely), if_pos (full.2 none)]
  · rw [if_neg (mt tag.1 fresh), if_neg (mt port.1 on), if_neg (mt late.1 timely), if_neg (mt full.1 slot),
      if_pos (crowded.2 few)]
  · rw [if_neg (mt tag.1 fresh), if_neg (mt port.1 on), if_neg (mt late.1 timely), if_neg (mt full.1 slot),
      if_neg (mt crowded.1 space), if_pos (queued.2 none)]

end

section
/-! SUPPORT. An accepted SUBMIT: the job's first state, and its write data in the pool (R12, R17, R42 to
R44). -/

namespace Sys2Proof.Machine

/-! ### A marker reads nothing -/

theorem walkSteps_nil_ok {index : Nat} {w w' : Walk} : ∀ {raws : List RawStep},
    walkSteps index w raws = .ok ([], w') → raws = [] ∧ w' = w
  | [], h => by
    unfold walkSteps at h
    split at h
    · cases h
    · exact ⟨rfl, (Prod.ext_iff.1 (Except.ok.inj h)).2.symm⟩
  | x :: rest, h => by
    unfold walkSteps at h
    split at h
    · cases h
    · split at h <;> cases h

theorem checkSteps_nil_ok {raws : List RawStep} {w : Walk} (h : checkSteps raws = .ok ([], w)) :
    w = Walk.begin := by
  unfold checkSteps at h
  split at h
  · cases h
  · exact (walkSteps_nil_ok h).2

/-- A submission of no port has no steps, holds no reply and reads nothing (R8, R9). -/
theorem parseSubmit_marker {p : List Byte} {x : Submission} (h : parseSubmit p = .ok x)
    (marker : x.port = none) : x.holdReply = false ∧ x.readTotal = 0 := by
  obtain ⟨port, trigger, steps, w, ok, rfl⟩ := parseSubmit_ok h
  refine ⟨Bool.eq_false_iff.2 fun hold => (ok.hold hold).2 marker, ?_⟩
  have empty : steps = [] := by
    have same := ok.marker
    rw [show port = none from marker] at same
    exact List.isEmpty_iff.1 same.symm
  have begins := ok.steps
  rw [empty] at begins
  exact congrArg Walk.readSum (checkSteps_nil_ok begins)

/-! ### The first state -/

theorem State.accept_later {s : State} {x : Submission} (later : x.trigger ≠ .now) :
    s.accept x = s.placeJob x := if_neg (mt beq_iff_eq.1 later)

/-- A NOW marker completes at its admission: its report takes the place that was reserved for it (R17). -/
theorem State.Admits.accept_marker {s : State} {x : Submission} (h : s.Admits x) (now : x.trigger = .now)
    (port : x.port = none) (notHeld : x.holdReply = false) (reads : x.readTotal = 0) :
    s.accept x = { s.placeJob x with
      slots := s.slots.set s.lowestFreeSlot none
      reports := s.reports.push (.job ((s.admittedJob x).markerReport s.time false true)) } := by
  have job : (s.placeJob x).job? s.lowestFreeSlot = some (s.admittedJob x) := by rw [h.job, if_pos rfl]
  have single : (s.admittedJob x).recurring = false := by
    simp only [Job.recurring, State.admittedJob, now]
  refine (if_pos (beq_iff_eq.2 now)).trans ((State.triggerJob_singleMarker s.time false job rfl port
    (reads.trans_le (Nat.zero_le 48)) notHeld rfl rfl single).trans ?_)
  rw [s.placeJob_slots, List.set_set]
  rfl

/-! ### The write data in the pool -/

theorem State.accept_pool (s : State) (x : Submission) :
    (s.accept x).pool = writeBytes (s.freeBlocks.take x.blocksNeeded) 0 x.data s.pool := by
  unfold State.accept
  dsimp only
  split
  · exact (State.triggerJob_jobsMoved _ _ _ _).pool
  · rfl

/-- Bytes that no byte of the data lies at read as before. -/
theorem read_writeBytes_other {blocks : List Nat} {a : Nat} : ∀ (bs : List Byte) (off : Nat)
    (m : List Host.Cell), Memory.wf m = true →
    (∀ k, k < bs.length → a ≠ poolAddr blocks (off + k)) →
    Memory.read (writeBytes blocks off bs m) a = Memory.read m a
  | [], _, _, _, _ => rfl
  | b :: bs, off, m, wf, other => by
    have here : a ≠ poolAddr blocks off := other 0 (Nat.zero_lt_succ _)
    have later (k : Nat) (lt : k < bs.length) : a ≠ poolAddr blocks (off + 1 + k) := by
      rw [Nat.add_right_comm]
      exact other (k + 1) (Nat.succ_lt_succ lt)
    rw [writeBytes, read_writeBytes_other bs (off + 1) _ (Memory.wf_write _ b wf) later,
      Memory.read_write_other b wf here]

/-- A byte of the data reads back, where no two of them lie at one address. -/
theorem read_writeBytes_same {blocks : List Nat} : ∀ (bs : List Byte) (off : Nat) (m : List Host.Cell),
    Memory.wf m = true → (∀ k l, k < bs.length → l < bs.length →
      poolAddr blocks (off + k) = poolAddr blocks (off + l) → k = l) →
    ∀ k, k < bs.length → Memory.read (writeBytes blocks off bs m) (poolAddr blocks (off + k)) = bs.getD k 0
  | [], _, _, _, _, k, lt => absurd lt (Nat.not_lt_zero k)
  | b :: bs, off, m, wf, apart, k, lt => by
    cases k with
    | zero =>
      have alone (l : Nat) (lt : l < bs.length) : poolAddr blocks (off + 0) ≠ poolAddr blocks (off + 1 + l) := by
        intro same
        rw [Nat.add_right_comm off 1 l] at same
        exact absurd (apart 0 (l + 1) (Nat.zero_lt_succ _) (Nat.succ_lt_succ lt) same) (Nat.succ_ne_zero l).symm
      rw [writeBytes, read_writeBytes_other bs (off + 1) _ (Memory.wf_write _ b wf) alone, Nat.add_zero,
        Memory.read_write_same _ b wf]
      rfl
    | succ k =>
      have shift (l : Nat) : off + 1 + l = off + (l + 1) := Nat.add_right_comm off 1 l
      have rest := read_writeBytes_same (blocks := blocks) bs (off + 1) (Memory.write m (poolAddr blocks off) b)
        (Memory.wf_write _ b wf) (fun i l hi hl same => Nat.succ.inj (apart (i + 1) (l + 1)
          (Nat.succ_lt_succ hi) (Nat.succ_lt_succ hl) (by rw [← shift i, ← shift l, same]))) k
        (Nat.lt_of_succ_lt_succ lt)
      rw [shift] at rest
      exact rest

theorem poolAddr_eq (blocks : List Nat) (k : Nat) : poolAddr blocks k = 32 * blocks.getD (k / 32) 0 + k % 32 := by
  rw [poolAddr, Nat.mul_comm]

theorem getD_mem {l : List Nat} {k : Nat} (h : k < l.length) : l.getD k 0 ∈ l := by
  rw [List.getD_eq_getElem?_getD, List.getElem?_eq_getElem h]
  exact List.getElem_mem h

/-- Two job offsets of lists with no block in common, or in one list, lie at one address only where the
blocks and the places in them are the same (R43). -/
theorem poolAddr_inj {l m : List Nat} {i k : Nat} (same : poolAddr l i = poolAddr m k) :
    l.getD (i / 32) 0 = m.getD (k / 32) 0 ∧ i % 32 = k % 32 := by
  rw [poolAddr_eq, poolAddr_eq] at same
  omega

theorem poolAddr_apart {l : List Nat} (sorted : l.Pairwise (· < ·)) {i k : Nat} (hi : i < 32 * l.length)
    (hk : k < 32 * l.length) (same : poolAddr l i = poolAddr l k) : i = k := by
  obtain ⟨block, place⟩ := poolAddr_inj same
  have li : i / 32 < l.length := by omega
  have lk : k / 32 < l.length := by omega
  have nodup : l.Nodup := sorted.imp Nat.ne_of_lt
  simp only [List.getD_eq_getElem?_getD, List.getElem?_eq_getElem li, List.getElem?_eq_getElem lk,
    Option.getD_some] at block
  have index : i / 32 = k / 32 := (List.Nodup.getElem_inj_iff nodup).1 block
  omega

end Sys2Proof.Machine

open Sys2Proof Sys2Proof.Machine

/-- Settles O27: a job that waits, a NOW job of a port, and a NOW marker, each with its answer. -/
theorem submitAcceptedTakesItsResources : Obligations.SubmitAcceptedTakesItsResources := by
  unfold Obligations.SubmitAcceptedTakesItsResources
  intro s r x h parsed admitted slot blocks now j placed reserved answered
  have admits : s.emptyHand.Admits x := State.admissionRefusal_eq_none (s := s.emptyHand) admitted
  have taken := exec_submit_admitted h parsed admitted
  have answers {u : State} (e : s.emptyHand.accept x = u.emptyHand) :
      exec .submit s = .next (answered u) := by
    rw [taken, e]
    refine congrArg _ ?_
    simp only [answered]
    split <;> rfl
  refine ⟨fun later => answers ?_, fun p at_ port => answers ?_, fun at_ port => answers ?_⟩
  · exact State.accept_later later
  · rw [admits.accept_now at_ port, State.joinTail]
    have job : (s.admittedJob x).triggered s.time false =
        j .ready { RunRecord.cleared with triggerTime := s.time } :=
      Job.triggered_single s.time false (by
        have trigger : x.trigger = .now := at_
        simp only [Job.recurring, State.admittedJob, trigger])
    have placed_ : (s.emptyHand.placeJob x).setJob s.emptyHand.lowestFreeSlot
        ((s.admittedJob x).triggered s.time false) =
        (placed (some (j .ready { RunRecord.cleared with triggerTime := s.time })) reserved).emptyHand := by
      rw [job, State.setJob, State.placeJob_slots, List.set_set]
      rfl
    refine (congrArg (fun t => State.setPort t p _) placed_).trans ?_
    cases p <;> rfl
  · obtain ⟨notHeld, reads⟩ := parseSubmit_marker parsed port
    rw [admits.accept_marker at_ port notHeld reads]
    rfl

end

section
/-! SUPPORT. The argument test of a step, and what a list that the walk accepts is like (R37 to R40). -/

namespace Sys2Proof.Machine

/-! ### The argument test -/

/-- The seven kinds of a step, and the rest (section 10.4). -/
theorem RawStep.kind_cases (x : RawStep) : x.kind = 1 ∨ x.kind = 2 ∨ x.kind = 3 ∨ x.kind = 4 ∨ x.kind = 5 ∨
    x.kind = 6 ∨ x.kind = 7 ∨ (x.kind.toNat = 0 ∨ ∃ m, x.kind.toNat = m + 8) := by
  have past : 8 ≤ x.kind.toNat → ∃ m, x.kind.toNat = m + 8 := fun h => ⟨x.kind.toNat - 8, by omega⟩
  by_cases h : 8 ≤ x.kind.toNat
  · simp only [past h, or_true]
  · simp only [← BitVec.toNat_inj, BitVec.ofNat_eq_ofNat, BitVec.toNat_ofNat, Nat.reducePow, Nat.reduceMod]
    omega

/-- The reason for which a step's arguments fail, by its kind (R38). -/
def RawStep.badArgument (x : RawStep) : Option Reason :=
  let target : Option Reason :=
    if x.arg1.toNat < 0x08 ∨ 0x77 < x.arg1.toNat then some .address else none
  let within (fits : Bool) : Option Reason := if fits then none else some .range
  match x.kind.toNat with
  | 1 => target.or (within (x.arg2 ≤ 1))
  | 2 => target.or (within (x.arg2 / 256 ≠ 0 ∧ x.arg2 % 256 ≠ 0))
  | 3 => within (x.arg1 = 0 ∧ 1 ≤ x.arg2 ∧ x.arg2 ≤ 192)
  | 4 => within (x.arg1 = 0 ∧ 1 ≤ x.arg2 ∧ x.arg2 ≤ 256)
  | 5 => within (x.arg1 = 0 ∧ x.arg2 = 0)
  | 6 => within (x.arg1.toNat ≤ 1 ∧ 1 ≤ x.arg2)
  | 7 => within (x.arg1 = 0 ∧ x.arg2 = 0)
  | _ => some .range

/-- The step that an encoding spells where its arguments pass (section 10.4). -/
def RawStep.spells (x : RawStep) : Step :=
  match x.kind.toNat with
  | 1 => .address (BitVec.ofNat 7 x.arg1.toNat) (if x.arg2 = 0 then .w else .r)
  | 2 => .poll (BitVec.ofNat 7 x.arg1.toNat) (x.arg2 / 256) (x.arg2 % 256)
  | 3 => .write x.arg2
  | 4 => .read x.arg2
  | 5 => .stop
  | 6 => .pause (if x.arg1 = 0 then .hold else .free) x.arg2
  | _ => .mark

theorem targetOk_eq (b : Byte) : targetOk b = decide ¬(b.toNat < 0x08 ∨ 0x77 < b.toNat) := by
  simp only [targetOk, ← Bool.decide_and, not_or, Nat.not_lt]

/-- A kind byte outside of 1 to 7 is no step's. -/
theorem RawStep.decode_other {x : RawStep} (h : x.kind.toNat = 0 ∨ ∃ m, x.kind.toNat = m + 8) :
    x.decode = .error .range ∧ x.badArgument = some .range := by
  constructor
  · have no (k : Byte) (lo : 1 ≤ k.toNat) (hi : k.toNat ≤ 7) : (x.kind == k) = false := by
      rw [beq_eq_false_iff_ne, ne_eq, ← BitVec.toNat_inj]
      omega
    simp [decode, no]
  · rcases h with e | ⟨m, e⟩ <;> simp only [badArgument, e]

theorem Byte.le_one_iff (b : Byte) : b.toNat ≤ 1 ↔ b = 0 ∨ b = 1 :=
  ⟨Byte.eq_of_le_one, by rintro (rfl | rfl) <;> decide⟩

theorem RawStep.decode_eq (x : RawStep) : x.decode = match x.badArgument with
    | some e => .error e
    | none => .ok x.spells := by
  rcases x.kind_cases with h | h | h | h | h | h | h | h
  case inl | inr.inl =>
    simp only [decode, badArgument, spells, h, targetOk_eq]
    by_cases bad : x.arg1.toNat < 0x08 ∨ 0x77 < x.arg1.toNat
    · simp [bad]
    · simp [bad]
      grind
  case inr.inr.inr.inr.inr.inl =>
    simp [decode, badArgument, spells, h, Byte.le_one_iff]
    grind
  case inr.inr.inr.inr.inr.inr.inr =>
    rw [(decode_other h).1, (decode_other h).2]
  all_goals
    simp [decode, badArgument, spells, h]
    grind

theorem RawStep.decode_ok {x : RawStep} {st : Step} (h : x.decode = .ok st) :
    x.badArgument = none ∧ st = x.spells := by
  rw [decode_eq] at h
  split at h
  · cases h
  · next passes => exact ⟨passes, (Except.ok.inj h).symm⟩

/-! ### What a passed argument test gives -/

/-- The ranges of a step's arguments (R38). -/
def Step.InRange (st : Step) : Prop :=
  match st with
  | .address target _ => 0x08 ≤ target.toNat ∧ target.toNat ≤ 0x77
  | .poll target limit gap => 0x08 ≤ target.toNat ∧ target.toNat ≤ 0x77 ∧
      1 ≤ limit ∧ limit ≤ 255 ∧ 1 ≤ gap ∧ gap ≤ 255
  | .write count => 1 ≤ count ∧ count ≤ 192
  | .read count => 1 ≤ count ∧ count ≤ 256
  | .stop => True
  | .pause _ ticks => 1 ≤ ticks ∧ ticks ≤ 65535
  | .mark => True

/-- What a step adds to the write length (R40). -/
def Step.written : Step → Nat
  | .write count => count
  | _ => 0

/-- What a step adds to the read total (R40). -/
def Step.taken : Step → Nat
  | .read count => count
  | _ => 0

theorem target_inRange {b : Byte} (h : ¬(b.toNat < 0x08 ∨ 0x77 < b.toNat)) :
    0x08 ≤ (BitVec.ofNat 7 b.toNat).toNat ∧ (BitVec.ofNat 7 b.toNat).toNat ≤ 0x77 := by
  rw [BitVec.toNat_ofNat, Nat.mod_eq_of_lt (by omega)]
  omega

theorem RawStep.spells_inRange {x : RawStep} (passes : x.badArgument = none) (word : x.arg2 < 65536) :
    x.spells.InRange := by
  rcases x.kind_cases with h | h | h | h | h | h | h | h
  case inr.inr.inr.inr.inr.inr.inr =>
    rw [(decode_other h).2] at passes
    cases passes
  case inl | inr.inl =>
    by_cases bad : x.arg1.toNat < 0x08 ∨ 0x77 < x.arg1.toNat
    · simp [badArgument, h, bad] at passes
    · have target := target_inRange bad
      simp [badArgument, h, bad] at passes
      simp [spells, h, Step.InRange]
      omega
  case inr.inr.inl | inr.inr.inr.inl | inr.inr.inr.inr.inr.inl =>
    simp [badArgument, h] at passes
    simp [spells, h, Step.InRange]
    omega
  case inr.inr.inr.inr.inl | inr.inr.inr.inr.inr.inr.inl =>
    simp [spells, h, Step.InRange]

/-- Only a WRITE writes, and as many bytes as its count field says. -/
theorem RawStep.spells_written {x : RawStep} : x.spells.written = if x.kind == 3 then x.arg2 else 0 := by
  rcases x.kind_cases with h | h | h | h | h | h | h | h
  case inr.inr.inr.inr.inr.inr.inr =>
    have not : (x.kind == 3) = false := by
      rw [beq_eq_false_iff_ne, ne_eq, ← BitVec.toNat_inj]
      show ¬x.kind.toNat = 3
      omega
    rw [not]
    rcases h with e | ⟨m, e⟩ <;> simp only [spells, e] <;> rfl
  all_goals simp [spells, h, Step.written]

/-! ### One step of the walk -/

theorem walkSteps_cons_ok {index : Nat} {w wf : Walk} {x : RawStep} {rest : List RawStep} {steps : List Step}
    (h : walkSteps index w (x :: rest) = .ok (steps, wf)) : ∃ st t w' sts, steps = st :: sts ∧
      x.decode = .ok st ∧ (index = 0 → st.opens = true) ∧ st.place w.transfer = .ok t ∧
      st.tally w t = .ok w' ∧ walkSteps (index + 1) w' rest = .ok (sts, wf) := by
  unfold walkSteps at h
  split at h
  · cases h
  next st w' passes =>
    split at h
    · cases h
    next sts last later =>
      obtain ⟨rfl, rfl⟩ := Prod.ext_iff.1 (Except.ok.inj h)
      unfold RawStep.check at passes
      split at passes
      · cases passes
      next st' decodes =>
        split at passes
        · cases passes
        next opens =>
          split at passes
          · cases passes
          next t place =>
            split at passes
            · cases passes
            next w'' tally =>
              obtain ⟨rfl, rfl⟩ := Prod.ext_iff.1 (Except.ok.inj passes)
              exact ⟨st', t, w'', sts, rfl, decodes, fun first => by simpa [first] using opens, place, tally, later⟩

/-- The limits that the count tests hold a walk to (R40). -/
structure Walk.Bounded (w : Walk) : Prop where
  marks    : w.marks ≤ 2
  writeSum : w.writeSum ≤ 192
  readSum  : w.readSum ≤ 256

/-- The walk behind a step that passes its count tests. -/
def Walk.past (w : Walk) (st : Step) (t : Transfer) : Walk where
  transfer := t
  marks    := w.marks + if st == .mark then 1 else 0
  writeSum := w.writeSum + st.written
  readSum  := w.readSum + st.taken

theorem Step.tally_ok {st : Step} {w w' : Walk} {t : Transfer} (h : st.tally w t = .ok w') :
    w' = w.past st t ∧ (w.Bounded → w'.Bounded) := by
  cases st with
  | mark =>
    simp only [tally] at h
    split at h
    · cases h
    next few =>
      obtain rfl := Except.ok.inj h
      exact ⟨rfl, fun b => ⟨by dsimp only; omega, b.writeSum, b.readSum⟩⟩
  | write n =>
    simp only [tally] at h
    split at h
    · cases h
    next few =>
      obtain rfl := Except.ok.inj h
      exact ⟨rfl, fun b => ⟨b.marks, by dsimp only; omega, b.readSum⟩⟩
  | read n =>
    simp only [tally] at h
    split at h
    · cases h
    next few =>
      obtain rfl := Except.ok.inj h
      exact ⟨rfl, fun b => ⟨b.marks, b.writeSum, by dsimp only; omega⟩⟩
  | address | poll | stop | pause =>
    obtain rfl := Except.ok.inj h
    exact ⟨rfl, fun b => ⟨b.marks, b.writeSum, b.readSum⟩⟩

/-! ### The whole walk -/

/-- Steps that pass the place test one after the other from a transfer state on, and leave no ADDRESS for
reading unread (R39). -/
def Placed : Transfer → List Step → Prop
  | t, [] => t ≠ .readOpenEmpty
  | t, st :: rest => ∃ t', st.place t = .ok t' ∧ Placed t' rest

/-- What a walk that ends well has read of its steps (R37 to R40). -/
structure Walked (raws : List RawStep) (steps : List Step) (w wf : Walk) : Prop where
  decodes : ∀ x ∈ raws, x.badArgument = none
  spells  : steps = raws.map RawStep.spells
  placed  : Placed w.transfer steps
  marks   : wf.marks = w.marks + steps.countP (fun st => st == .mark)
  written : wf.writeSum = w.writeSum + (steps.map Step.written).sum
  taken   : wf.readSum = w.readSum + (steps.map Step.taken).sum
  bounded : w.Bounded → wf.Bounded

theorem walkSteps_ok : ∀ {raws : List RawStep} {index : Nat} {w wf : Walk} {steps : List Step},
    walkSteps index w raws = .ok (steps, wf) → Walked raws steps w wf
  | [], index, w, wf, steps, h => by
    unfold walkSteps at h
    split at h
    · cases h
    next read =>
      obtain ⟨rfl, rfl⟩ := Prod.ext_iff.1 (Except.ok.inj h)
      exact ⟨nofun, rfl, by simpa [Placed] using read, rfl, rfl, rfl, id⟩
  | x :: rest, index, w, wf, steps, h => by
    obtain ⟨st, t, w', sts, rfl, decodes, -, place, tally, later⟩ := walkSteps_cons_ok h
    obtain ⟨good, rfl⟩ := RawStep.decode_ok decodes
    obtain ⟨rfl, bounded⟩ := Step.tally_ok tally
    have rest := walkSteps_ok later
    refine ⟨List.forall_mem_cons.2 ⟨good, rest.decodes⟩, by rw [rest.spells]; rfl, ⟨t, place, rest.placed⟩,
      ?_, ?_, ?_, fun b => rest.bounded (bounded b)⟩
    · rw [rest.marks, List.countP_cons]
      simp only [Walk.past]
      omega
    · rw [rest.written, List.map_cons, List.sum_cons]
      simp only [Walk.past]
      omega
    · rw [rest.taken, List.map_cons, List.sum_cons]
      simp only [Walk.past]
      omega

theorem checkSteps_ok {raws : List RawStep} {steps : List Step} {w : Walk}
    (h : checkSteps raws = .ok (steps, w)) : raws.length ≤ 16 ∧ Walked raws steps Walk.begin w ∧
      ∀ st, steps.head? = some st → st.opens = true := by
  unfold checkSteps at h
  split at h
  · cases h
  next few =>
    refine ⟨by omega, walkSteps_ok h, fun st head => ?_⟩
    cases raws with
    | nil => rw [(walkSteps_ok h).spells] at head; cases head
    | cons x rest =>
      obtain ⟨st', t, w', sts, rfl, -, opens, -⟩ := walkSteps_cons_ok h
      obtain rfl := Option.some.inj head
      exact opens rfl

theorem Walk.begin_bounded : Walk.begin.Bounded := ⟨Nat.zero_le _, Nat.zero_le _, Nat.zero_le _⟩

/-- The write length that a walk keeps is the one that the payload's size is checked against (R7). -/
theorem rawWriteSum_eq (raws : List RawStep) :
    rawWriteSum raws = ((raws.map RawStep.spells).map Step.written).sum := by
  induction raws with
  | nil => rfl
  | cons x rest ih =>
    rw [rawWriteSum, List.map_cons, List.map_cons, List.sum_cons, ih, RawStep.spells_written]

theorem checkSteps_writeSum {raws : List RawStep} {steps : List Step} {w : Walk}
    (h : checkSteps raws = .ok (steps, w)) : w.writeSum = rawWriteSum raws := by
  obtain ⟨-, walked, -⟩ := checkSteps_ok h
  rw [rawWriteSum_eq, ← walked.spells, walked.written]
  exact Nat.zero_add _

/-- The write data of a submission is as long as its WRITE steps say (R7, R41). -/
theorem parseSubmit_data {p : List Byte} {x : Submission} (h : parseSubmit p = .ok x) :
    x.data.length = x.writeLen := by
  obtain ⟨port, trigger, steps, w, ok, rfl⟩ := parseSubmit_ok h
  have size := ok.size
  simp only [sizeMatches, Bool.and_eq_true, decide_eq_true_eq, beq_iff_eq, ← checkSteps_writeSum ok.steps]
    at size
  simp only [submissionOf, List.length_drop]
  omega

end Sys2Proof.Machine

open Sys2Proof Sys2Proof.Machine

/-- Settles O28: the data's addresses are apart from each other and from every live job's. -/
theorem submitStoresTheWriteData : Obligations.SubmitStoresTheWriteData := by
  unfold Obligations.SubmitStoresTheWriteData
  intro s r x h law parsed admitted blocks addr
  have admits : s.emptyHand.Admits x := State.admissionRefusal_eq_none (s := s.emptyHand) admitted
  have address (k : Nat) : addr k = poolAddr blocks k := (poolAddr_eq blocks k).symm
  have enough : x.data.length ≤ 32 * blocks.length := by
    have fits : x.blocksNeeded ≤ s.freeBlocks.length := admits.blocks
    have count : blocks.length = x.blocksNeeded := (List.length_take ..).trans (Nat.min_eq_left fits)
    rw [count, parseSubmit_data parsed]
    simp only [Submission.blocksNeeded, Config.blockBytes]
    omega
  have apart : ∀ k l, k < x.data.length → l < x.data.length →
      poolAddr blocks (0 + k) = poolAddr blocks (0 + l) → k = l := fun k l hk hl same => by
    rw [Nat.zero_add, Nat.zero_add] at same
    have sorted : blocks.Pairwise (· < ·) := s.freeBlocks_pairwise.sublist (List.take_sublist _ _)
    exact poolAddr_apart sorted (by omega) (by omega) same
  have others (a : Nat) (other : ∀ k, k < x.data.length → a ≠ addr k) :
      Memory.read (writeBytes blocks 0 x.data s.pool) a = Memory.read s.pool a :=
    read_writeBytes_other x.data 0 s.pool law fun k lt => by
      rw [Nat.zero_add, ← address]
      exact other k lt
  have pool : (s.emptyHand.accept x).pool = writeBytes blocks 0 x.data s.pool := s.emptyHand.accept_pool x
  obtain ⟨t, e, stored⟩ : ∃ t, exec .submit s = .next t ∧ t.pool = writeBytes blocks 0 x.data s.pool := by
    refine ⟨_, exec_submit_admitted h parsed admitted, ?_⟩
    split <;> exact pool
  refine ⟨t, e, fun k lt => ?_, fun a other => ?_, fun i j k hj lt => ?_⟩
  · have back := read_writeBytes_same (blocks := blocks) x.data 0 s.pool law apart k lt
    rw [Nat.zero_add, ← address] at back
    rw [stored, back]
  · rw [stored, others a other]
  · rw [stored]
    refine others _ fun l hl same => ?_
    rw [address] at same
    obtain ⟨block, -⟩ := poolAddr_inj same
    have held : j.blocks.getD (k / 32) 0 ∈ s.heldBlocks := State.mem_heldBlocks hj (getD_mem (by omega))
    have given : blocks.getD (l / 32) 0 ∈ blocks := getD_mem (by omega)
    have free : blocks.getD (l / 32) 0 ∈ s.freeBlocks := List.mem_of_mem_take given
    rw [← block] at free
    exact (State.mem_freeBlocks.1 free).2 held

end

section
/-! SUPPORT. The step check as the first test that fails (R37 to R40). -/

namespace Sys2Proof.Machine

/-! ### The place test and the count tests of an encoded step -/

/-- The transfer state that a step leaves (R39). -/
def RawStep.becomes (t : Transfer) (x : RawStep) : Transfer :=
  match x.kind.toNat with
  | 1 => if x.arg2 = 0 then .writeOpen else .readOpenEmpty
  | 2 => .writeOpen
  | 4 => .readOpenUsed
  | 5 => .closed
  | 6 => if x.arg1 = 1 then .closed else t
  | _ => t

/-- The reason for which a step fails the place test (R39). -/
def RawStep.misplaced (t : Transfer) (x : RawStep) : Option Reason :=
  match x.kind.toNat, t with
  | 1, .readOpenEmpty => some .order
  | 2, .readOpenEmpty => some .order
  | 5, .readOpenEmpty => some .order
  | 6, .readOpenEmpty => if x.arg1 = 1 then some .order else none
  | 6, .closed => if x.arg1 = 0 then some .order else none
  | 3, .closed => some .order
  | 3, .readOpenEmpty => some .direction
  | 3, .readOpenUsed => some .direction
  | 4, .closed => some .order
  | 4, .writeOpen => some .direction
  | _, _ => none

/-- The walk behind a step (R40). -/
def Walk.next (w : Walk) (x : RawStep) : Walk where
  transfer := RawStep.becomes w.transfer x
  marks    := w.marks + if x.kind == 7 then 1 else 0
  writeSum := w.writeSum + if x.kind = 3 then x.arg2 else 0
  readSum  := w.readSum + if x.kind = 4 then x.arg2 else 0

/-- The reason for which a step fails the count tests, by the walk behind it (R40). -/
def RawStep.overCounts (x : RawStep) (after : Walk) : Option Reason :=
  match x.kind.toNat with
  | 3 => if 192 < after.writeSum then some .lengthSum else none
  | 4 => if 256 < after.readSum then some .lengthSum else none
  | 7 => if 3 ≤ after.marks then some .marks else none
  | _ => none

theorem RawStep.pause_of_kind_six {x : RawStep} (h : x.kind = 6) (passes : x.badArgument = none) :
    x.arg1 = 0 ∨ x.arg1 = 1 := by
  simp [badArgument, h] at passes
  exact Byte.eq_of_le_one passes.1

/-- A step with good arguments has one of the seven kinds. -/
theorem RawStep.kind_of_passes {x : RawStep} (passes : x.badArgument = none) : x.kind = 1 ∨ x.kind = 2 ∨
    x.kind = 3 ∨ x.kind = 4 ∨ x.kind = 5 ∨ x.kind = 6 ∨ x.kind = 7 := by
  rcases x.kind_cases with h | h | h | h | h | h | h | h
  case inr.inr.inr.inr.inr.inr.inr =>
    rw [(decode_other h).2] at passes
    cases passes
  all_goals simp only [h, true_or, or_true]

theorem RawStep.opens_iff {x : RawStep} (passes : x.badArgument = none) :
    x.spells.opens = true ↔ x.kind = 1 ∨ x.kind = 2 := by
  rcases kind_of_passes passes with h | h | h | h | h | h | h <;> simp [spells, h, Step.opens]

theorem RawStep.place_eq {x : RawStep} (passes : x.badArgument = none) (t : Transfer) :
    x.spells.place t = match x.misplaced t with
      | some e => .error e
      | none => .ok (becomes t x) := by
  rcases kind_of_passes passes with h | h | h | h | h | h | h
  case inl =>
    by_cases dir : x.arg2 = 0 <;> cases t <;> simp [spells, h, dir, misplaced, becomes, Step.place]
  case inr.inr.inr.inr.inr.inl =>
    rcases pause_of_kind_six h passes with mode | mode <;> cases t <;>
      simp [spells, h, mode, misplaced, becomes, Step.place]
  all_goals cases t <;> simp [spells, h, misplaced, becomes, Step.place]

theorem RawStep.tally_eq {x : RawStep} (passes : x.badArgument = none) (w : Walk) :
    x.spells.tally w (becomes w.transfer x) = match x.overCounts (w.next x) with
      | some e => .error e
      | none => .ok (w.next x) := by
  rcases kind_of_passes passes with h | h | h | h | h | h | h
  case inr.inr.inl | inr.inr.inr.inl | inr.inr.inr.inr.inr.inr =>
    simp [spells, h, overCounts, Walk.next, Step.tally]
    split_ifs <;> rfl
  all_goals simp [spells, h, overCounts, Walk.next, Step.tally]

/-! ### The four tests of a step -/

/-- The reason for which a step fails at an index of the walk (R37). -/
def RawStep.fails (index : Nat) (w : Walk) (x : RawStep) : Option Reason :=
  x.badArgument.or (if index = 0 ∧ x.kind ≠ 1 ∧ x.kind ≠ 2 then some .order
    else (x.misplaced w.transfer).or (x.overCounts (w.next x)))

theorem RawStep.check_eq (x : RawStep) (index : Nat) (w : Walk) :
    x.check index w = match x.fails index w with
      | some e => .error e
      | none => .ok (x.spells, w.next x) := by
  rw [check, decode_eq, fails]
  cases bad : x.badArgument with
  | some e => rfl
  | none =>
    have opens := opens_iff bad
    simp only [Option.none_or]
    by_cases first : index = 0 ∧ x.kind ≠ 1 ∧ x.kind ≠ 2
    · have closed : x.spells.opens = false := by
        rw [Bool.eq_false_iff, ne_eq, opens]
        tauto
      rw [if_pos first, if_pos ⟨first.1, by rw [closed]; rfl⟩]
    · have later : ¬(index = 0 ∧ (!x.spells.opens) = true) := by
        rw [Bool.not_eq_true', Bool.eq_false_iff, ne_eq, opens]
        tauto
      rw [if_neg first, if_neg later, place_eq bad]
      cases x.misplaced w.transfer with
      | some e => rfl
      | none =>
        dsimp only [Option.none_or]
        rw [tally_eq bad]
        cases x.overCounts (w.next x) <;> rfl

/-! ### The walk over a list -/

theorem walkSteps_cons (index : Nat) (w : Walk) (x : RawStep) (rest : List RawStep) :
    walkSteps index w (x :: rest) = match x.fails index w with
      | some e => .error (index, e)
      | none => match walkSteps (index + 1) (w.next x) rest with
        | .error e => .error e
        | .ok (sts, wf) => .ok (x.spells :: sts, wf) := by
  rw [walkSteps, RawStep.check_eq]
  cases x.fails index w <;> rfl

/-- The walk behind the first steps of a list. -/
def Walk.after (w : Walk) (l : List RawStep) : Walk := l.foldl Walk.next w

theorem Walk.after_take_succ (w : Walk) (x : RawStep) (rest : List RawStep) (k : Nat) :
    w.after ((x :: rest).take (k + 1)) = (w.next x).after (rest.take k) := rfl

/-- The first step that fails is the one that is reported. -/
theorem walkSteps_fails {x : RawStep} {reason : Reason} : ∀ (rest : List RawStep) (index i : Nat) (w : Walk),
    rest[i]? = some x → x.fails (index + i) (w.after (rest.take i)) = some reason →
    (∀ k y, k < i → rest[k]? = some y → y.fails (index + k) (w.after (rest.take k)) = none) →
    walkSteps index w rest = .error (index + i, reason)
  | y :: rest, index, 0, w, at_, fails, _ => by
    obtain rfl := Option.some.inj at_
    have first : y.fails index w = some reason := fails
    simp only [walkSteps_cons, first, Nat.add_zero]
  | y :: rest, index, i + 1, w, at_, fails, passes => by
    have first : y.fails index w = none := passes 0 y (Nat.succ_pos i) rfl
    have shift (k : Nat) : index + (k + 1) = index + 1 + k := by omega
    rw [shift, Walk.after_take_succ] at fails
    have later := walkSteps_fails rest (index + 1) i (w.next y) at_ fails fun k z lt hz => by
      have next := passes (k + 1) z (Nat.succ_lt_succ lt) hz
      rwa [shift, Walk.after_take_succ] at next
    rw [shift]
    simp only [walkSteps_cons, first, later]

/-- A list of which every step passes is refused only for an ADDRESS for reading that is left unread. -/
theorem walkSteps_passes : ∀ (rest : List RawStep) (index : Nat) (w : Walk),
    (∀ k y, rest[k]? = some y → RawStep.fails (index + k) (w.after (rest.take k)) y = none) →
    walkSteps index w rest = if (w.after rest).transfer = .readOpenEmpty
      then .error (index + rest.length - 1, .order)
      else .ok (rest.map RawStep.spells, w.after rest)
  | [], index, w, _ => by
    rw [walkSteps]
    simp only [beq_iff_eq]
    rfl
  | y :: rest, index, w, passes => by
    have first : y.fails index w = none := passes 0 y rfl
    have shift (k : Nat) : index + (k + 1) = index + 1 + k := by omega
    have later := walkSteps_passes rest (index + 1) (w.next y) fun k z hz => by
      have next := passes (k + 1) z hz
      rwa [shift, Walk.after_take_succ] at next
    have whole : w.after (y :: rest) = (w.next y).after rest := rfl
    rw [List.length_cons, shift]
    simp only [walkSteps_cons, first, later, whole]
    split_ifs <;> rfl

/-- What the walk keeps, as sums over the steps behind it (R37, R40). -/
theorem Walk.begin_after (l : List RawStep) : Walk.begin.after l =
    { transfer := l.foldl RawStep.becomes .closed
      marks    := l.countP (fun x => x.kind == 7)
      writeSum := (l.map (fun x => if x.kind = 3 then x.arg2 else 0)).sum
      readSum  := (l.map (fun x => if x.kind = 4 then x.arg2 else 0)).sum } := by
  induction l using List.reverseRecOn with
  | nil => rfl
  | append_singleton l x ih =>
    have step : Walk.begin.after (l ++ [x]) = (Walk.begin.after l).next x := by
      simp only [Walk.after, List.foldl_append, List.foldl_cons, List.foldl_nil]
    rw [step, ih]
    simp [Walk.next, List.countP_cons]

/-- The step before an index and the one at it. -/
theorem Walk.next_take {l : List RawStep} {x : RawStep} {i : Nat} (w : Walk) (h : l[i]? = some x) :
    (w.after (l.take i)).next x = w.after (l.take (i + 1)) := by
  rw [List.take_add_one, h]
  simp only [Walk.after, List.foldl_append, Option.toList_some, List.foldl_cons, List.foldl_nil]

end Sys2Proof.Machine

end

section
/-! SUPPORT. The transfers of an accepted list, and the fields of a payload that passes checks 1 to 4 (R7 to
R9, R37, R39). -/

namespace Sys2Proof.Machine

/-! ### The raw steps of a payload -/

theorem fieldAt_two {p : List Byte} {off : Nat} (h : off + 1 < p.length) :
    fieldAt p off 2 = (byteAt p off).toNat * 256 + (byteAt p (off + 1)).toNat := by
  have here : off < p.length := by omega
  have bytes : (p.drop off).take 2 = [byteAt p off, byteAt p (off + 1)] := by
    rw [List.drop_eq_getElem_cons here, List.drop_eq_getElem_cons h]
    simp only [byteAt, List.take_succ_cons, List.take_zero, List.getD_eq_getElem?_getD,
      List.getElem?_eq_getElem here, List.getElem?_eq_getElem h, Option.getD_some]
  rw [fieldAt, bytes, natBE_pair]

/-! ### The transfers of an accepted list -/

/-- The direction of the transfer that is open behind a step. -/
def Step.opened (o : Option Direction) (st : Step) : Option Direction :=
  match st with
  | .address _ dir => some dir
  | .poll _ _ _ => some .w
  | .stop => none
  | .pause .free _ => none
  | _ => o

/-- The direction of the transfer that a transfer state stands for (R39). -/
def Transfer.direction : Transfer → Option Direction
  | .closed => none
  | .writeOpen => some .w
  | .readOpenEmpty => some .r
  | .readOpenUsed => some .r

theorem Step.place_direction {st : Step} {t t' : Transfer} (h : st.place t = .ok t') :
    t'.direction = st.opened t.direction := by
  cases st with
  | address target dir => cases dir <;> cases t <;> cases h <;> rfl
  | pause mode ticks => cases mode <;> cases t <;> cases h <;> rfl
  | poll | write | read | stop | mark => cases t <;> cases h <;> rfl

/-- Each step of a placed list passes the place test in the transfer that the steps before it left open. -/
theorem Placed.at {steps : List Step} : ∀ {t : Transfer} {i : Nat} {st : Step}, Placed t steps →
    steps[i]? = some st → ∃ before after, st.place before = .ok after ∧
      (steps.take i).foldl Step.opened t.direction = before.direction ∧ Placed after (steps.drop (i + 1)) := by
  induction steps with
  | nil => exact fun _ h => nomatch h
  | cons x rest ih =>
    intro t i st ⟨t', place, placed⟩ at_
    cases i with
    | zero =>
      obtain rfl := Option.some.inj at_
      exact ⟨t, t', place, rfl, placed⟩
    | succ i =>
      obtain ⟨before, after, here, direction, later⟩ := ih placed at_
      refine ⟨before, after, here, ?_, later⟩
      rw [List.take_succ_cons, List.foldl_cons, ← Step.place_direction place, direction]

/-- A transfer for reading of which nothing has been read leads to a READ (R39). -/
theorem Placed.leadsToRead : ∀ {steps : List Step}, Placed .readOpenEmpty steps → LeadsToRead steps
  | [], h => absurd rfl h
  | st :: rest, ⟨t, place, placed⟩ => by
    rw [leadsToRead_cons]
    cases st with
    | read count => exact .inl ⟨count, rfl⟩
    | mark =>
      obtain rfl := Except.ok.inj place
      exact .inr ⟨.inl rfl, placed.leadsToRead⟩
    | pause mode ticks =>
      cases mode with
      | hold =>
        obtain rfl := Except.ok.inj place
        exact .inr ⟨.inr ⟨ticks, rfl⟩, placed.leadsToRead⟩
      | free => cases place
    | address target dir =>
      cases dir
      · cases place
      · cases place
    | poll | write | stop => cases place

theorem Step.place_write {n : Nat} {t t' : Transfer} (h : (Step.write n).place t = .ok t') :
    t.direction = some .w := by
  cases t <;> cases h
  rfl

theorem Step.place_read {n : Nat} {t t' : Transfer} (h : (Step.read n).place t = .ok t') :
    t.direction = some .r := by cases t <;> cases h <;> rfl

theorem Step.place_hold {n : Nat} {t t' : Transfer} (h : (Step.pause .hold n).place t = .ok t') :
    t.direction ≠ none := by cases t <;> cases h <;> decide

theorem Step.place_address_r {target : BitVec 7} {t t' : Transfer}
    (h : (Step.address target .r).place t = .ok t') : t' = .readOpenEmpty := by cases t <;> cases h <;> rfl

/-! ### The fields of a payload -/

theorem jobPortOfCode_some {b : Byte} {o : Option PortId} (h : jobPortOfCode b = some o) :
    b = 0 ∧ o = none ∨ b = 1 ∧ o = some .a ∨ b = 2 ∧ o = some .b := by
  unfold jobPortOfCode portOfCode at h
  split_ifs at h with none a b
  · exact .inl ⟨none, (Option.some.inj h).symm⟩
  · exact .inr (.inl ⟨a, (Option.some.inj h).symm⟩)
  · exact .inr (.inr ⟨b, (Option.some.inj h).symm⟩)
  · cases h

theorem flagUnbreakable_eq (b : Byte) : flagUnbreakable b = b.getLsbD 0 := by
  revert b
  decide

theorem flagHoldReply_eq (b : Byte) : flagHoldReply b = b.getLsbD 1 := by
  revert b
  decide

theorem bitsWithin_descriptorFlags (b : Byte) : bitsWithin descriptorFlags b = decide (b.toNat ≤ 3) := by
  revert b
  decide

theorem natBE_concat (bs : List Byte) (b : Byte) : natBE (bs ++ [b]) = natBE bs * 256 + b.toNat := by
  rw [natBE, List.foldl_append]
  rfl

theorem natBE_lt (bs : List Byte) : natBE bs < 256 ^ bs.length := by
  induction bs using List.reverseRecOn with
  | nil => exact Nat.one_pos
  | append_singleton bs b ih =>
    have byte : b.toNat < 256 := b.isLt
    rw [natBE_concat, List.length_append, List.length_singleton, Nat.pow_succ]
    omega

theorem fieldAt_lt (p : List Byte) (off size : Nat) : fieldAt p off size < 256 ^ size :=
  (natBE_lt _).trans_le (Nat.pow_le_pow_right (by decide) (List.length_take_le ..))

theorem deadlineOf_eq (p : List Byte) : deadlineOf p =
    if fieldAt p 16 6 = 2 ^ 48 - 1 then none else some (BitVec.ofNat 48 (fieldAt p 16 6)) := by
  have lt : fieldAt p 16 6 < 2 ^ 48 := fieldAt_lt p 16 6
  have none : timeAt p 16 = BitVec.allOnes 48 ↔ fieldAt p 16 6 = 2 ^ 48 - 1 := by
    rw [← BitVec.toNat_inj, timeAt, BitVec.toNat_ofNat, Nat.mod_eq_of_lt lt, BitVec.toNat_allOnes]
  simp only [deadlineOf, beq_iff_eq, none]
  rfl

/-! ### The trigger fields -/

/-- The triggers that a payload's trigger fields spell, with the ranges of their arguments (R8). -/
theorem triggerOf_ok {p : List Byte} {g : Trigger} (h : triggerOf p = .ok g) :
    byteAt p 3 = 0 ∧ g = .now ∨ byteAt p 3 = 1 ∧ g = .atTime (timeAt p 4) ∨
    (byteAt p 3 = 2 ∧ (64 ≤ fieldAt p 4 4 ∧ fieldAt p 8 4 < fieldAt p 4 4) ∧
      g = .every (BitVec.ofNat 32 (fieldAt p 4 4)) (BitVec.ofNat 32 (fieldAt p 8 4))
        (BitVec.ofNat 16 (fieldAt p 12 2))) ∨
    (byteAt p 3 = 3 ∧ ((byteAt p 4).toNat < 8 ∧ byteAt p 5 ≠ 0) ∧
      g = .event (byteAt p 4).toNat (byteAt p 5).toNat) := by
  unfold triggerOf at h
  simp only [beq_iff_eq, Config.eventLines] at h
  split at h
  next now =>
    split at h
    · cases h
    · exact .inl ⟨now, (Except.ok.inj h).symm⟩
  split at h
  next timed =>
    split at h
    · cases h
    · exact .inr (.inl ⟨timed, (Except.ok.inj h).symm⟩)
  split at h
  next recurs =>
    split_ifs at h with short late
    exact .inr (.inr (.inl ⟨recurs, ⟨by omega, by omega⟩, (Except.ok.inj h).symm⟩))
  split at h
  next counts =>
    split_ifs at h with line none
    split at h
    · cases h
    · exact .inr (.inr (.inr ⟨counts, ⟨by omega, none⟩, (Except.ok.inj h).symm⟩))
  · cases h

theorem triggerOf_every {p : List Byte} {period phase : BitVec 32} {runs : BitVec 16}
    (h : triggerOf p = .ok (.every period phase runs)) : 64 ≤ period.toNat ∧ phase.toNat < period.toNat := by
  have small (off : Nat) : fieldAt p off 4 < 2 ^ 32 := fieldAt_lt p off 4
  have number (off : Nat) : (BitVec.ofNat 32 (fieldAt p off 4)).toNat = fieldAt p off 4 := by
    rw [BitVec.toNat_ofNat, Nat.mod_eq_of_lt (small off)]
  rcases triggerOf_ok h with ⟨_, g⟩ | ⟨_, g⟩ | ⟨_, range, g⟩ | ⟨_, _, g⟩ <;> cases g
  rw [number, number]
  exact range

theorem triggerOf_event {p : List Byte} {line count : Nat} (h : triggerOf p = .ok (.event line count)) :
    line < 8 ∧ 1 ≤ count ∧ count ≤ 255 := by
  rcases triggerOf_ok h with ⟨_, g⟩ | ⟨_, g⟩ | ⟨_, _, g⟩ | ⟨_, ⟨lt, some⟩, g⟩ <;> cases g
  have byte : (byteAt p 5).toNat < 256 := (byteAt p 5).isLt
  have pos : (byteAt p 5).toNat ≠ 0 := fun zero => some (BitVec.eq_of_toNat_eq zero)
  exact ⟨lt, by omega, by omega⟩

end Sys2Proof.Machine

open Sys2Proof Sys2Proof.Machine

/-- Settles O25: the walk as the first test that fails, and what the walk of an accepted list has read. -/
theorem acceptedStepListsAreWellFormed : Obligations.AcceptedStepListsAreWellFormed := by
  unfold Obligations.AcceptedStepListsAreWellFormed
  refine ⟨?first, ?bytes, ?place, ?list, ?submission⟩
  case first =>
    intro raws argument becomes before place total marks counted fails step n
    have walk (i : Nat) : Walk.begin.after (raws.take i) =
        { transfer := before i, marks := marks i, writeSum := total 3 i, readSum := total 4 i } :=
      Walk.begin_after _
    have same {i : Nat} {x : RawStep} (at_ : raws[i]? = some x) :
        fails i x = x.fails (0 + i) (Walk.begin.after (raws.take i)) := by
      rw [RawStep.fails, Walk.next_take _ at_, walk, walk, Nat.zero_add]
      rfl
    refine ⟨fun many => if_pos many, fun few => ?_⟩
    have check : checkSteps raws = walkSteps 0 Walk.begin raws := if_neg (Nat.not_lt.2 few)
    refine ⟨fun i x reason at_ bad good => ?_, fun good => ?_⟩
    · rw [check, walkSteps_fails raws 0 i Walk.begin at_ (same at_ ▸ bad)
        fun k y lt hy => same hy ▸ good k y lt hy, Nat.zero_add]
    · have whole := walk n
      rw [List.take_length] at whole
      rw [check, walkSteps_passes raws 0 Walk.begin fun k y hy => same hy ▸ good k y hy, whole, Nat.zero_add]
      exact ⟨fun unread => if_pos unread, fun read => if_neg read⟩
  case bytes =>
    intro p n size
    refine List.map_congr_left fun i hi => ?_
    have lt : i < n := List.mem_range.1 hi
    rw [rawStepAt, Config.descriptorBytes, fieldAt_two (by omega), show 23 + 4 * i + 1 = 24 + 4 * i by omega,
      show 23 + 4 * i + 2 = 25 + 4 * i by omega, show 25 + 4 * i + 1 = 26 + 4 * i by omega]
  case place =>
    intro target n limit gap ticks t closes
    cases t <;> simp [closes, Step.place]
  case list =>
    intro raws steps w words accepted opened openIn
    obtain ⟨few, walked, opens⟩ := checkSteps_ok accepted
    have bounded : w.Bounded := walked.bounded Walk.begin_bounded
    have at_ {i : Nat} {st : Step} (h : steps[i]? = some st) : ∃ t t', st.place t = .ok t' ∧
        openIn i = t.direction ∧ Placed t' (steps.drop (i + 1)) := walked.placed.at h
    have length : steps.length = raws.length := by rw [walked.spells, List.length_map]
    refine ⟨length, length ▸ few, opens, fun st mem => ?_, fun i count h => ?_, fun i count h => ?_,
      fun i ticks h => ?_, fun i target h => ?_, ?_, ?_, ?_, bounded.writeSum, bounded.readSum⟩
    · rw [walked.spells] at mem
      obtain ⟨x, hx, rfl⟩ := List.mem_map.1 mem
      exact RawStep.spells_inRange (walked.decodes x hx) (words x hx)
    · obtain ⟨t, t', place, direction, -⟩ := at_ h
      rw [direction, Step.place_write place]
    · obtain ⟨t, t', place, direction, -⟩ := at_ h
      rw [direction, Step.place_read place]
    · obtain ⟨t, t', place, direction, -⟩ := at_ h
      rw [direction]
      exact Step.place_hold place
    · obtain ⟨t, t', place, -, later⟩ := at_ h
      rw [Step.place_address_r place] at later
      exact (leadsToRead_drop steps i).1 later.leadsToRead
    · have marks := walked.marks
      have few := bounded.marks
      have begins : Walk.begin.marks = 0 := rfl
      omega
    · exact walked.written.trans (Nat.zero_add _)
    · exact walked.taken.trans (Nat.zero_add _)
  case submission =>
    intro p x parsed
    have data := parseSubmit_data parsed
    obtain ⟨port, trigger, steps, w, ok, rfl⟩ := parseSubmit_ok parsed
    have bounded : w.Bounded := (checkSteps_ok ok.steps).2.1.bounded Walk.begin_bounded
    refine ⟨rfl, ok.tag, rfl, ok.retries, flagUnbreakable_eq _, flagHoldReply_eq _, jobPortOfCode_some ok.port,
      ?_, deadlineOf_eq p, rfl, data, ⟨w, ok.steps, rfl, rfl⟩, ?_, ok.hold, fun period phase runs e => ?_,
      fun line count e => ?_, bounded.writeSum, bounded.readSum⟩
    · exact (triggerOf_ok ok.trigger).imp_right (.imp_right (.imp (fun ⟨k, _, g⟩ => ⟨k, g⟩) fun ⟨k, _, g⟩ => ⟨k, g⟩))
    · show port = none ↔ steps = []
      rw [← Option.isNone_iff_eq_none, ← List.isEmpty_iff, ok.marker]
    · have recurs : trigger = .every period phase runs := e
      have range : triggerOf p = .ok (.every period phase runs) := recurs ▸ ok.trigger
      exact ⟨(triggerOf_every range).1, (triggerOf_every range).2, ok.short (by rw [recurs]; rfl)⟩
    · have counts : trigger = .event line count := e
      exact triggerOf_event (counts ▸ ok.trigger)

end

section
/-! SUPPORT. SUBMIT's checks 1 to 4 as they refuse a payload (R7 to R9). -/

namespace Sys2Proof.Machine

/-! ### The refusals in their order -/

theorem badField_eq {off : Nat} (h : off < 256) : badField off = [0x11, 0, BitVec.ofNat 8 off] := by
  have high : off / 256 = 0 := Nat.div_eq_of_lt h
  simp [badField, bytesBE, high, Status.code]

section Refused

variable {p : List Byte}

theorem parseSubmit_badLength (size : sizeMatches p = false) : parseSubmit p = .error [0x10] := by
  simp [parseSubmit, size, Status.code]

variable (size : sizeMatches p = true)
include size

theorem parseSubmit_noTag (tag : tagAt p = 0) : parseSubmit p = .error (badField 0) := by
  simp [parseSubmit, size, tag]

variable (tag : tagAt p ≠ 0#16)
include tag

theorem parseSubmit_badPort (port : jobPortOfCode (byteAt p 2) = none) :
    parseSubmit p = .error (badField 2) := by
  simp [parseSubmit, size, tag, port]

variable {o : Option PortId} (port : jobPortOfCode (byteAt p 2) = some o)
include port

theorem parseSubmit_badTrigger {off : Nat} (trigger : triggerOf p = .error off) :
    parseSubmit p = .error (badField off) := by
  simp [parseSubmit, size, tag, port, trigger]

variable {g : Trigger} (trigger : triggerOf p = .ok g)
include trigger

theorem parseSubmit_badFlags (flags : bitsWithin descriptorFlags (byteAt p 14) = false) :
    parseSubmit p = .error (badField 14) := by
  simp [parseSubmit, size, tag, port, trigger, flags]

variable (flags : bitsWithin descriptorFlags (byteAt p 14) = true)
include flags

theorem parseSubmit_badRetries (retries : 7 < (byteAt p 15).toNat) :
    parseSubmit p = .error (badField 15) := by
  simp [parseSubmit, size, tag, port, trigger, flags, retries]

variable (retries : (byteAt p 15).toNat ≤ 7)
include retries

theorem parseSubmit_badSteps {i : Nat} {reason : Reason}
    (steps : checkSteps (rawSteps p (byteAt p 22).toNat) = .error (i, reason)) :
    parseSubmit p = .error (badSteps i reason) := by
  simp [parseSubmit, size, tag, port, trigger, flags, Nat.not_lt.2 retries, steps]

/-- What is left once the list is accepted: the checks that need several fields (R9). -/
theorem parseSubmit_of_steps {l : List Step} {w : Walk}
    (steps : checkSteps (rawSteps p (byteAt p 22).toNat) = .ok (l, w)) :
    parseSubmit p = if o.isNone ≠ l.isEmpty then .error (badSteps 0 .count)
      else if flagHoldReply (byteAt p 14) = true ∧ (g ≠ .now ∨ o = none) then .error (badField 14)
      else if g.recurs = true ∧ 48 < w.readSum then .error (badField 3)
      else .ok (submissionOf p o g l w) := by
  simp [parseSubmit, size, tag, port, trigger, flags, Nat.not_lt.2 retries, steps]
  cases g <;> simp [Trigger.recurs, submissionOf, Config.shortBytes]

end Refused

/-! ### What the checks read -/

theorem rawWriteSum_eq_sum (raws : List RawStep) :
    rawWriteSum raws = (raws.map (fun x => if x.kind = 3 then x.arg2 else 0)).sum := by
  induction raws with
  | nil => rfl
  | cons x rest ih =>
    rw [rawWriteSum, ih, List.map_cons, List.sum_cons]
    simp only [beq_iff_eq]

theorem sizeMatches_iff (p : List Byte) : sizeMatches p = true ↔
    p.length = 23 + 4 * (byteAt p 22).toNat +
      ((rawSteps p (byteAt p 22).toNat).map (fun x => if x.kind = 3 then x.arg2 else 0)).sum := by
  simp only [sizeMatches, Config.descriptorBytes, Bool.and_eq_true, decide_eq_true_eq, beq_iff_eq,
    rawWriteSum_eq_sum]
  omega

/-- The pad bytes of a payload from one offset to another are 0 (R8). -/
def Padded (p : List Byte) (a b : Nat) : Prop := ∀ k, a ≤ k → k < b → byteAt p k = 0

theorem firstNonZero_eq_none {p : List Byte} {off len : Nat} (h : Padded p off (off + len)) :
    firstNonZero p off len = none := by
  simp only [firstNonZero, List.find?_eq_none, List.mem_map, List.mem_range]
  rintro _ ⟨i, lt, rfl⟩
  simp [h (off + i) (by omega) (by omega)]

theorem firstNonZero_eq_some {p : List Byte} {off len k : Nat} (lo : off ≤ k) (hi : k < off + len)
    (pad : Padded p off k) (bad : byteAt p k ≠ 0) :
    firstNonZero p off len = some k := by
  obtain ⟨i, rfl⟩ := Nat.exists_eq_add_of_le lo
  rw [firstNonZero, List.find?_map, Option.map_eq_some_iff]
  refine ⟨i, List.find?_range_eq_some.2 ⟨by simpa using bad, List.mem_range.2 (by omega), fun j lt => ?_⟩, rfl⟩
  simp [pad (off + j) (by omega) (by omega)]

theorem triggerOf_now {p : List Byte} (h : byteAt p 3 = 0) : triggerOf p = match firstNonZero p 4 10 with
    | some off => .error off
    | none => .ok .now := by
  simp only [triggerOf, h] <;> rfl

theorem triggerOf_atTime {p : List Byte} (h : byteAt p 3 = 1) :
    triggerOf p = match firstNonZero p 10 4 with
    | some off => .error off
    | none => .ok (.atTime (timeAt p 4)) := by
  simp only [triggerOf, h] <;> rfl

theorem triggerOf_recurring {p : List Byte} (h : byteAt p 3 = 2) :
    triggerOf p = if fieldAt p 4 4 < 64 then .error 4
    else if fieldAt p 4 4 ≤ fieldAt p 8 4 then .error 8
    else .ok (.every (BitVec.ofNat 32 (fieldAt p 4 4)) (BitVec.ofNat 32 (fieldAt p 8 4))
      (BitVec.ofNat 16 (fieldAt p 12 2))) := by
  simp only [triggerOf, h] <;> rfl

theorem triggerOf_counting {p : List Byte} (h : byteAt p 3 = 3) :
    triggerOf p = if 8 ≤ (byteAt p 4).toNat then .error 4
    else if byteAt p 5 = 0 then .error 5
    else match firstNonZero p 6 8 with
      | some off => .error off
      | none => .ok (.event (byteAt p 4).toNat (byteAt p 5).toNat) := by
  simp only [triggerOf, h, Config.eventLines, ← beq_iff_eq (a := byteAt p 5)] <;> rfl

theorem triggerOf_noKind {p : List Byte} (h : 3 < (byteAt p 3).toNat) : triggerOf p = .error 3 := by
  have not (k : Byte) (small : k.toNat ≤ 3) : (byteAt p 3 == k) = false := by
    rw [beq_eq_false_iff_ne, ne_eq, ← BitVec.toNat_inj]
    omega
  simp [triggerOf, not]

/-- Trigger fields that pass (R8, section 10.3). -/
def TriggerFits (p : List Byte) : Prop :=
  (byteAt p 3 = 0 ∧ Padded p 4 14) ∨ (byteAt p 3 = 1 ∧ Padded p 10 14) ∨
  (byteAt p 3 = 2 ∧ 64 ≤ fieldAt p 4 4 ∧ fieldAt p 8 4 < fieldAt p 4 4) ∨
  (byteAt p 3 = 3 ∧ (byteAt p 4).toNat < 8 ∧ byteAt p 5 ≠ 0 ∧ Padded p 6 14)

theorem TriggerFits.ok {p : List Byte} (h : TriggerFits p) : ∃ g, triggerOf p = .ok g := by
  rcases h with ⟨kind, pad⟩ | ⟨kind, pad⟩ | ⟨kind, long, early⟩ | ⟨kind, line, some, pad⟩
  · exact ⟨_, by rw [triggerOf_now kind, firstNonZero_eq_none (off := 4) (len := 10) pad]⟩
  · exact ⟨_, by rw [triggerOf_atTime kind, firstNonZero_eq_none (off := 10) (len := 4) pad]⟩
  · exact ⟨_, by rw [triggerOf_recurring kind, if_neg (Nat.not_lt.2 long), if_neg (Nat.not_le.2 early)]⟩
  · exact ⟨_, by 
      rw [triggerOf_counting kind, if_neg (Nat.not_le.2 line), if_neg some,
        firstNonZero_eq_none (off := 6) (len := 8) pad]⟩

theorem triggerOf_kind {p : List Byte} {g : Trigger} (h : triggerOf p = .ok g) :
    (g = .now ↔ byteAt p 3 = 0) ∧ (g.recurs = true ↔ byteAt p 3 = 2) := by
  rcases triggerOf_ok h with ⟨kind, rfl⟩ | ⟨kind, rfl⟩ | ⟨kind, -, rfl⟩ | ⟨kind, -, rfl⟩ <;>
    simp [kind, Trigger.recurs]

theorem jobPortOfCode_high {b : Byte} (h : 2 < b.toNat) : jobPortOfCode b = none := by
  have not (k : Byte) (small : k.toNat ≤ 2) : b ≠ k := by
    rw [ne_eq, ← BitVec.toNat_inj]
    omega
  rw [jobPortOfCode, portOfCode, if_neg (not 0 (by decide)), if_neg (not 1 (by decide)),
    if_neg (not 2 (by decide))]
  rfl

theorem jobPortOfCode_low {b : Byte} (h : b.toNat ≤ 2) :
    ∃ o, jobPortOfCode b = some o ∧ (o = none ↔ b = 0) := by
  have codes : b = 0 ∨ b = 1 ∨ b = 2 := by
    simp only [← BitVec.toNat_inj, BitVec.ofNat_eq_ofNat, BitVec.toNat_ofNat, Nat.reducePow, Nat.reduceMod]
    omega
  rcases codes with rfl | rfl | rfl
  · exact ⟨none, rfl, by decide⟩
  · exact ⟨some .a, rfl, by decide⟩
  · exact ⟨some .b, rfl, by decide⟩

end Sys2Proof.Machine

open Sys2Proof Sys2Proof.Machine

/-- Settles O24: each refusal is the one of the first check that fails. -/
theorem submitChecksItsPayloadInOrder : Obligations.SubmitChecksItsPayloadInOrder := by
  unfold Obligations.SubmitChecksItsPayloadInOrder
  intro s r h long p n writes code refused pad badPad triggerFits
  have rejects {payload : List Byte} (e : parseSubmit p = .error payload) : refused payload :=
    exec_submit_unparsed h long e
  have field {off : Nat} (lt : off < 256) (e : parseSubmit p = .error (badField off)) :
      refused [0x11, 0, BitVec.ofNat 8 off] := rejects (badField_eq lt ▸ e)
  refine ⟨fun wrong => rejects (parseSubmit_badLength ?_), fun right => ?_⟩
  · rw [Bool.eq_false_iff, ne_eq, sizeMatches_iff]
    exact fun right => wrong.elim (fun short => by omega) fun other => other right
  have size : sizeMatches p = true := (sizeMatches_iff p).2 right
  refine ⟨fun zero => field (by decide) (parseSubmit_noTag size zero),
    fun tag high => field (by decide) (parseSubmit_badPort size tag (jobPortOfCode_high high)),
    fun tag low => ?_⟩
  obtain ⟨o, port, marker⟩ := jobPortOfCode_low low
  have trigger {off : Nat} (lt : off < 256) (e : triggerOf p = .error off) :
      refused [0x11, 0, BitVec.ofNat 8 off] := field lt (parseSubmit_badTrigger size tag port e)
  refine ⟨fun none => trigger (by decide) (triggerOf_noKind none),
    fun kind k lo hi zeros bad => trigger (by omega) ?_, fun kind k lo hi zeros bad => trigger (by omega) ?_,
    fun kind short => trigger (by decide) ?_, fun kind fits late => trigger (by decide) ?_,
    fun kind line => trigger (by decide) ?_, fun kind line none => trigger (by decide) ?_,
    fun kind line some k lo hi zeros bad => trigger (by omega) ?_, fun fits => ?_⟩
  · rw [triggerOf_now kind, firstNonZero_eq_some lo hi zeros bad]
  · rw [triggerOf_atTime kind, firstNonZero_eq_some lo hi zeros bad]
  · rw [triggerOf_recurring kind, if_pos short]
  · rw [triggerOf_recurring kind, if_neg (Nat.not_lt.2 fits), if_pos late]
  · rw [triggerOf_counting kind, if_pos line]
  · rw [triggerOf_counting kind, if_neg (Nat.not_le.2 line), if_pos none]
  · rw [triggerOf_counting kind, if_neg (Nat.not_le.2 line), if_neg some, firstNonZero_eq_some lo hi zeros bad]
  obtain ⟨g, good⟩ := TriggerFits.ok fits
  obtain ⟨now, recurs⟩ := triggerOf_kind good
  refine ⟨fun high => field (by decide) (parseSubmit_badFlags size tag port good ?_), fun low high => ?_,
    fun low few => ?_⟩
  · rw [bitsWithin_descriptorFlags, decide_eq_false (Nat.not_le.2 high)]
  · have flags : bitsWithin descriptorFlags (byteAt p 14) = true := by
      rw [bitsWithin_descriptorFlags, decide_eq_true low]
    exact field (by decide) (parseSubmit_badRetries size tag port good flags high)
  have flags : bitsWithin descriptorFlags (byteAt p 14) = true := by
    rw [bitsWithin_descriptorFlags, decide_eq_true low]
  refine ⟨fun i reason bad => ?_, fun steps w walked => ?_⟩
  · have coded : reason.code = code reason := by cases reason <;> rfl
    exact rejects ((parseSubmit_badSteps size tag port good flags few bad).trans (by rw [← coded]; rfl))
  have last := parseSubmit_of_steps size tag port good flags few walked
  have fit : (o.isNone = steps.isEmpty) ↔ (byteAt p 2 = 0 ↔ steps = []) := by
    rw [Bool.eq_iff_iff, Option.isNone_iff_eq_none, List.isEmpty_iff, marker]
  refine ⟨fun odd => rejects ?_, fun even hold held => field (by decide) ?_,
    fun even free kind much => field (by decide) ?_⟩
  · have unfit : ¬(byteAt p 2 = 0 ↔ steps = []) := fun even =>
      odd.elim (fun ⟨noPort, listed⟩ => listed (even.1 noPort)) fun ⟨onPort, empty⟩ => onPort (even.2 empty)
    exact last.trans (if_pos (mt fit.1 unfit))
  · rw [last, if_neg (not_not.2 (fit.2 even)), if_pos]
    rw [flagHoldReply_eq]
    exact ⟨hold, held.imp now.not.2 marker.2⟩
  · rw [last, if_neg (not_not.2 (fit.2 even)), if_neg, if_pos ⟨recurs.2 kind, much⟩]
    rw [flagHoldReply_eq, free]
    exact fun c => Bool.false_ne_true c.1

end
